-- ==== Sys2Proof/Word.lean ====
section
/-! DEFINITION. The words of the block: bytes and the nine-bit selector. -/

namespace Sys2Proof

/-- An 8-bit unsigned value, bit 7 the most significant (spec/00_scope.md R9). -/
abbrev Byte := BitVec 8

/-- The selector word `sel[8:0]` of spec/30_encoding.md R46: bit 8 the decoder state, bits 7 to 0 the
input byte. -/
abbrev Selector := BitVec 9

end Sys2Proof
end

