-- ==== Sys2Proof/Config.lean ====
section
/-! DEFINITION. What an instance of the block, and of its two collaborators, fixes when it is built; and
the free values, constants without a body that stand for what the spec leaves open. -/

namespace Sys2Proof

/-- The constants of one instance (spec/00_scope.md R4, R5, R6; spec/10_state.md R19). -/
structure Config where
  /-- The start sentinel (R4). -/
  START : Byte
  /-- The end sentinel (R5). -/
  END : Byte
  /-- The capacity of the frame buffer in bytes (R6). -/
  C : Nat
deriving DecidableEq, Repr

/-- The reference configuration: `START = 0xAA`, `END = 0x55`, `C = 128` (R4, R5, R6). -/
def Config.reference : Config := { START := 0xAA#8, END := 0x55#8, C := 128 }

/-- The legal values of the parameters: `C >= 3` (R6) and `START != END` (R7). Any other configuration is
refused. -/
abbrev Config.Legal (c : Config) : Prop := 3 ≤ c.C ∧ c.START ≠ c.END

/-- The width of `byteCount`: the least `W` with `2 ^ W > C` (spec/00_scope.md R8). -/
def Config.W (c : Config) : Nat := Nat.log2 c.C + 1

/-- The greatest length of an emitted frame (spec/00_scope.md R8). -/
def Config.LMAX (c : Config) : Nat := c.C - 1

/-- The parameters of the Frame Sink, a collaborator outside the block (spec/42_emission_and_sinks.md R68,
R70). -/
structure SinkParams where
  /-- The ten bytes at datagram offset 0. -/
  MAGIC : Vector Byte 10
  /-- The manufacturer id, at offset 10. -/
  MFR_ID : Byte
  /-- The bus type id, at offset 11. -/
  BUS_ID : Byte
  /-- The reserved byte, at offset 12. -/
  RSVD : Byte
  /-- The destination port. -/
  UDP_PORT : BitVec 16
deriving DecidableEq, Repr

/-- The reference header constants, with the destination port left as an argument: `UDP_PORT` is OPEN (R70).
PRESUMED, unsafe: the character codes of `HVAC_shark` are the spec's passage from general knowledge (R68,
spec/93_implementation_defined.md G1); log entry 12. -/
def SinkParams.reference (udpPort : BitVec 16) : SinkParams where
  MAGIC := #v[0x48#8, 0x56#8, 0x41#8, 0x43#8, 0x5F#8, 0x73#8, 0x68#8, 0x61#8, 0x72#8, 0x6B#8]
  MFR_ID := 1#8
  BUS_ID := 0#8
  RSVD := 0#8
  UDP_PORT := udpPort

/-- The parameters of the diagnostic log, a collaborator outside the block; both are OPEN
(spec/42_emission_and_sinks.md R74, R75). -/
structure LogParams where
  /-- What ends a line. -/
  LOG_EOL : List Byte
  /-- The text of the length-exceeded error. -/
  LOG_ERR_TEXT : List Byte
deriving DecidableEq, Repr

/-- The defaults the spec gives for tests: `LOG_EOL = [0x0A]` (R74) and an empty error text (the table of
open parameters in spec/92_eei_decisions.md). -/
def LogParams.forTests : LogParams := { LOG_EOL := [0x0A#8], LOG_ERR_TEXT := [] }

/-- FREE VALUE: what cell `i` of the buffer holds before anything has written it, "any 8-bit value"
(spec/10_state.md R25). DESIGN CHOICE, safe; log entry 5. -/
opaque Config.resetCell (i : Nat) : Byte

/-- FREE VALUE: whether, in clock cycle `tick`, `ACC_START` also stores the new `START` into `buf[n]` before
it flushes (spec/41_accumulating_transitions.md R59 (e)). DESIGN CHOICE, safe; log entry 7. -/
opaque Config.accStartStores (tick : Nat) : Bool

/-- FREE VALUE: byte `i` of `out_data` in clock cycle `tick` where it carries no meaning
(spec/42_emission_and_sinks.md R63). DESIGN CHOICE, safe; log entry 9. -/
opaque Config.freeOutByte (tick i : Nat) : Byte

end Sys2Proof
end

