-- ==== Sys2Proof/Syntax.lean ====
section
/-! DEFINITION. The decoder states and the instruction set: one constructor per row of
spec/opcode_table.json, that is per transition of spec/30_encoding.md R47. -/

namespace Sys2Proof

/-- The two values of the `state` register (spec/10_state.md R13). -/
inductive DecoderState where
  /-- No frame in progress. -/
  | idle
  /-- Bytes are being collected into the buffer. -/
  | accumulating
deriving DecidableEq, Repr

/-- The six transitions (spec/30_encoding.md R47). The one operand of each is the input byte `b` (R44). -/
inductive Instr where
  /-- `IDLE_DROP` (spec/40_idle_transitions.md R53). -/
  | idleDrop (b : Byte)
  /-- `IDLE_OPEN` (R54). -/
  | idleOpen (b : Byte)
  /-- `ACC_END` (spec/41_accumulating_transitions.md R58). -/
  | accEnd (b : Byte)
  /-- `ACC_START` (R59). -/
  | accStart (b : Byte)
  /-- `ACC_DATA` (R60). -/
  | accData (b : Byte)
  /-- `ACC_OVERFLOW` (R61). -/
  | accOverflow (b : Byte)
deriving DecidableEq, Repr

/-- The operand of an instruction (spec/30_encoding.md R44). -/
def Instr.byte : Instr → Byte
  | .idleDrop b => b
  | .idleOpen b => b
  | .accEnd b => b
  | .accStart b => b
  | .accData b => b
  | .accOverflow b => b

/-- The mnemonic, as spec/opcode_table.json spells it (spec/30_encoding.md R50). -/
def Instr.mnemonic : Instr → String
  | .idleDrop _ => "IDLE_DROP"
  | .idleOpen _ => "IDLE_OPEN"
  | .accEnd _ => "ACC_END"
  | .accStart _ => "ACC_START"
  | .accData _ => "ACC_DATA"
  | .accOverflow _ => "ACC_OVERFLOW"

end Sys2Proof
end

