-- ==== Sys2Proof/WellFormed.lean ====
section
/-! DEFINITION. Which terms of `Instr` are instructions of an instance: the operand is of the byte class its
row of spec/30_encoding.md R47 names. -/

namespace Sys2Proof

/-- The byte class column of spec/30_encoding.md R47, checked on the operand. -/
def Instr.wellFormed (c : Config) : Instr → Bool
  | .idleDrop b => decide (b ≠ c.START)
  | .idleOpen b => decide (b = c.START)
  | .accEnd b => decide (b = c.END)
  | .accStart b => decide (b = c.START)
  | .accData b => decide (b ≠ c.START ∧ b ≠ c.END)
  | .accOverflow b => decide (b ≠ c.START ∧ b ≠ c.END)

end Sys2Proof
end

