-- ==== Sys2Proof/Decode.lean ====
section
/-! DEFINITION. Decoding: byte classes, the selector word, the transition it selects, the decoder over
stored bytes; the encoder; and the table of spec/30_encoding.md R47 as match and mask rows. -/

namespace Sys2Proof

/-! ### The selector -/

/-- The one-bit encoding of `state`: `Idle = 0`, `Accumulating = 1` (spec/10_state.md R13). -/
def DecoderState.code : DecoderState → BitVec 1
  | .idle => 0#1
  | .accumulating => 1#1

/-- The selector `{state, b}` (spec/30_encoding.md R46). -/
def selectorOf (st : DecoderState) (b : Byte) : Selector := st.code ++ b

/-- `sel[8]`, as a decoder state (spec/30_encoding.md R46). -/
def selectorState (sel : Selector) : DecoderState :=
  if sel.extractLsb' 8 1 = 1#1 then .accumulating else .idle

/-- `sel[7:0]`, the input byte (spec/30_encoding.md R46). -/
def selectorByte (sel : Selector) : Byte := sel.extractLsb' 0 8

/-! ### Decoding -/

/-- The three byte classes (spec/30_encoding.md R45). -/
inductive ByteClass where
  | START
  | END
  | DATA
deriving DecidableEq, Repr

/-- The class of a byte: all eight bits are compared (spec/30_encoding.md R45, R43). -/
def classify (c : Config) (b : Byte) : ByteClass :=
  if b = c.START then .START else if b = c.END then .END else .DATA

/-- The transition that a selector selects. `guard` is the condition `byteCount + 1 == C - 1`, which is not
in the selector and tells `ACC_DATA` from `ACC_OVERFLOW` (spec/30_encoding.md R46, R47). -/
def decode (c : Config) (sel : Selector) (guard : Bool) : Instr :=
  let b := selectorByte sel
  match selectorState sel, classify c b with
  | .idle, .START => .idleOpen b
  | .idle, .END => .idleDrop b
  | .idle, .DATA => .idleDrop b
  | .accumulating, .END => .accEnd b
  | .accumulating, .START => .accStart b
  | .accumulating, .DATA => if guard then .accOverflow b else .accData b

/-- Why a list of stored bytes is no instruction word. -/
inductive DecodeRefusal where
  /-- The configuration is one the spec gives no meaning (spec/00_scope.md R6, R7). -/
  | illegalConfig
  /-- Not the two bytes that hold a selector. -/
  | wrongLength (length : Nat)
  /-- A bit above the selector's bit 8 is set. -/
  | bitsAboveSelector
deriving DecidableEq, Repr

/-- The decoder over stored bytes: a selector is held in two bytes, bits 7 to 0 first, bit 8 in the least
significant bit of the second. DESIGN CHOICE (the spec stores no selector), safe; log entry 4. -/
def decodeBytes (c : Config) (guard : Bool) (bytes : List Byte) : Except DecodeRefusal Instr :=
  if ¬ c.Legal then .error .illegalConfig
  else match bytes with
    | [low, high] =>
      if high.extractLsb' 1 7 = 0#7 then .ok (decode c (high.extractLsb' 0 1 ++ low) guard)
      else .error .bitsAboveSelector
    | _ => .error (.wrongLength bytes.length)

/-- What the decoder reads from a word numbered as spec/opcode_table.json numbers it, in the reference
configuration. The word holds no guard, which is taken as false: `ACC_DATA` and `ACC_OVERFLOW` have the same
word and it reads as `ACC_DATA`. DESIGN CHOICE, safe; log entry 4. -/
def decodeTableWord (nbits w : Nat) : Option Instr :=
  let v := w % 2 ^ nbits
  if v / 65536 = 0 then
    (decodeBytes Config.reference false [BitVec.ofNat 8 v, BitVec.ofNat 8 (v / 256)]).toOption
  else none

/-! ### Encoding -/

/-- The state column of spec/30_encoding.md R47: the state a transition is taken in. -/
def Instr.fromState : Instr → DecoderState
  | .idleDrop _ => .idle
  | .idleOpen _ => .idle
  | .accEnd _ => .accumulating
  | .accStart _ => .accumulating
  | .accData _ => .accumulating
  | .accOverflow _ => .accumulating

/-- The guard column of spec/30_encoding.md R47: whether the transition may be taken when the guard
`byteCount + 1 == C - 1` has the value `guard`. -/
def Instr.admitsGuard (guard : Bool) : Instr → Bool
  | .idleDrop _ => true
  | .idleOpen _ => true
  | .accEnd _ => true
  | .accStart _ => true
  | .accData _ => !guard
  | .accOverflow _ => guard

/-- The selector of a transition (spec/30_encoding.md R46, R47). -/
def encode (i : Instr) : Selector := selectorOf i.fromState i.byte

/-- The two stored bytes of a transition's selector, as `decodeBytes` reads them. -/
def encodeBytes (i : Instr) : List Byte :=
  [(encode i).extractLsb' 0 8, (0#7 : BitVec 7) ++ (encode i).extractLsb' 8 1]

/-! ### The transition map as a table -/

/-- The causes of an emission (spec/42_emission_and_sinks.md R64). -/
inductive Cause where
  /-- Code 1: the frame was closed by `END`. -/
  | endSeen
  /-- Code 2: the frame was aborted by a new `START`. -/
  | restart
  /-- Code 3: the overflow guard flushed the frame. -/
  | overflow
deriving DecidableEq, Repr

/-- One row of spec/30_encoding.md R47, with the match, mask and priority of spec/opcode_table.json. `n` is
`byteCount` at the start of the step. -/
structure TableRow where
  mnemonic : String
  /-- `match` of the table. -/
  pattern : Selector
  mask : Selector
  priority : Nat
  /-- The value the guard `n + 1 == C - 1` must have; none where the row has no further condition. -/
  guard : Option Bool
  /-- The cause of the emission and its length in bytes, given `n` as `0` and counted on from it: `none`
  where nothing is emitted, else the cause and what is added to `n`. -/
  emission : Option (Cause × Nat)
  nextState : DecoderState
  /-- `none`: the next `byteCount` is `n + 1`; `some k`: it is `k`. -/
  nextCount : Option Nat
deriving DecidableEq, Repr

/-- The rows of spec/30_encoding.md R47, with the instance's sentinels in place of `0xAA` and `0x55`, as R46
says. The emission of `ACC_OVERFLOW` has `C - 1` bytes, which is `n + 1` under its guard. -/
def transitionTable (c : Config) : List TableRow :=
  [ { mnemonic := "IDLE_DROP", pattern := 0x000#9, mask := 0x100#9, priority := 2, guard := none,
      emission := none, nextState := .idle, nextCount := some 0 },
    { mnemonic := "IDLE_OPEN", pattern := 0#1 ++ c.START, mask := 0x1FF#9, priority := 1, guard := none,
      emission := none, nextState := .accumulating, nextCount := some 1 },
    { mnemonic := "ACC_END", pattern := 1#1 ++ c.END, mask := 0x1FF#9, priority := 1, guard := none,
      emission := some (.endSeen, 1), nextState := .idle, nextCount := some 0 },
    { mnemonic := "ACC_START", pattern := 1#1 ++ c.START, mask := 0x1FF#9, priority := 1, guard := none,
      emission := some (.restart, 0), nextState := .accumulating, nextCount := some 1 },
    { mnemonic := "ACC_DATA", pattern := 0x100#9, mask := 0x100#9, priority := 2, guard := some false,
      emission := none, nextState := .accumulating, nextCount := none },
    { mnemonic := "ACC_OVERFLOW", pattern := 0x100#9, mask := 0x100#9, priority := 2, guard := some true,
      emission := some (.overflow, 1), nextState := .idle, nextCount := some 0 } ]

/-- A row matches when `(sel & mask) == match` and its guard, where it has one, holds
(spec/30_encoding.md R46). -/
def TableRow.matches (r : TableRow) (sel : Selector) (guard : Bool) : Bool :=
  decide (sel &&& r.mask = r.pattern) && (r.guard == none || r.guard == some guard)

/-- The matching row with the numerically smallest priority (spec/30_encoding.md R46). -/
def firstRow (sel : Selector) (guard : Bool) : List TableRow → Option TableRow
  | [] => none
  | r :: rows =>
    match r.matches sel guard, firstRow sel guard rows with
    | false, best => best
    | true, none => some r
    | true, some q => if q.priority < r.priority then some q else some r

/-- The row of the transition map that a selector and a guard select. -/
def tableRow (c : Config) (sel : Selector) (guard : Bool) : Option TableRow :=
  firstRow sel guard (transitionTable c)

end Sys2Proof
end

