-- ==== Sys2Proof/Machine/State.lean ====
section
/-! DEFINITION. The state of the machine as plain data, the reasons a step can stop, and the state after
reset. -/

namespace Sys2Proof.Machine

/-- The frame buffer: the cells that have been written, as (index, byte) pairs with strictly rising indices
(spec/10_state.md R15, spec/20_memory.md R28). A cell that is not listed has not been written; what it holds
is the free value `Config.resetCell` (log entry 5). -/
abbrev Memory := List Host.Cell

/-- One emission event: the cause and the copied bytes, index 0 first (spec/42_emission_and_sinks.md R63,
R64, R66). -/
structure Emission where
  cause : Cause
  frame : List Byte
deriving DecidableEq, Repr

/-- The values of the input pins in one clock cycle (spec/30_encoding.md R42, spec/70_reset_and_hazards.md
R93). -/
structure Pins where
  rst : Bool
  inValid : Bool
  inByte : Byte
deriving DecidableEq, Repr

/-- The whole state. `state`, `byteCount` and `buf` are the block's (spec/10_state.md R13, R14, R15; there is
no other, R17). The other four fields are the model's own; no rule of the spec counts them as state. -/
structure State where
  /-- The constants of the instance, written by nothing (spec/10_state.md R19; log entry 1). -/
  cfg : Config
  /-- The decoder state register (R13). -/
  state : DecoderState
  /-- The length counter and write pointer (R14; log entry 10). -/
  byteCount : Nat
  /-- The frame buffer (R15). -/
  buf : Memory
  /-- The pin values of the clock cycles to come, first cycle first: what the environment will present
  (spec/00_scope.md R12; log entry 2). -/
  input : List Pins
  /-- What the output ports present in the cycle just run (spec/42_emission_and_sinks.md R63; log entry 3). -/
  out : Option Emission
  /-- Counts clock cycles; the free values are drawn with it (log entry 8). -/
  tick : Nat
deriving DecidableEq, Repr

/-- Why a step faults. -/
inductive Fault where
  /-- An access to a buffer cell at or above index `C`, which does not exist (spec/20_memory.md R28). Raised by
  the cell operations of Machine/Ops.lean. Safe: the machine stops. No step of the machine raises it (R36; the
  obligation NoStepFaults). -/
  | outsideBuffer (index : Nat)
deriving DecidableEq, Repr

/-- Why a step is refused. -/
inductive Refusal where
  /-- Raised by `exec` for an instruction that has no meaning yet. Safe. No arm of this model raises it. -/
  | notModelled (mnemonic : String)
  /-- The configuration has `C < 3` or `START == END`: "refused by the model; the spec gives it no meaning"
  (spec/00_scope.md R6, R7). Raised by every step and every meaning. Safe. -/
  | illegalConfig
  /-- A byte is presented in a state outside spec/10_state.md R21, which the spec gives no meaning (R24).
  Raised by every meaning. Safe; no run from reset comes to such a state. -/
  | unreachableState
  /-- A meaning was asked for in a state, or with a byte, in which its row of spec/30_encoding.md R47 is not
  the one selected. Raised by every meaning; a step never asks so. Safe; log entry 11. -/
  | notSelected (mnemonic : String)
deriving DecidableEq, Repr

/-- An instance right after reset (spec/70_reset_and_hazards.md R93, spec/10_state.md R25): `Idle`, count 0,
no cell written, no emission; nothing presented yet by the environment. -/
def State.initial (c : Config) : State where
  cfg := c
  state := .idle
  byteCount := 0
  buf := []
  input := []
  out := none
  tick := 0

/-- The reference instance right after reset. -/
def State.reset : State := State.initial Config.reference

end Sys2Proof.Machine
end

