-- ==== Sys2Proof/Machine/Memory.lean ====
section
/-! DEFINITION. Reading and writing one cell of a memory in its canonical form. -/

namespace Sys2Proof.Machine

/-- What the memory lists at an index. An unlisted index reads as no value; `State.readCell` turns that into
the free value of a cell that nothing has written (spec/10_state.md R25; log entry 5). -/
def Memory.read? : Memory → Nat → Option Byte
  | [], _ => none
  | (a, v) :: m, i => if i = a then some v else Memory.read? m i

/-- Store one byte, keeping the indices strictly rising (spec/20_memory.md R34: no wider write exists). -/
def Memory.write : Memory → Nat → Byte → Memory
  | [], i, v => [(i, v)]
  | (a, w) :: m, i, v =>
    if i < a then (i, v) :: (a, w) :: m
    else if i = a then (i, v) :: m
    else (a, w) :: Memory.write m i v

/-- The canonical form: indices strictly rising. An unlisted index reads as no value, so no entry equals what
an unlisted index reads as. -/
abbrev Memory.wf (m : Memory) : Prop := m.Pairwise fun x y => x.1 < y.1

end Sys2Proof.Machine
end

