-- ==== Sys2Proof/Machine/Flags.lean ====
section
/-! DEFINITION. The block has no flags and no condition codes (spec/10_state.md R17). This file holds the
tests a step makes instead: the overflow guard, the reachable-state condition, and the numeric codes of the
outcomes of a step. -/

namespace Sys2Proof.Machine

/-- The overflow guard as the table states it, on `byteCount` at the start of the step: `n + 1 == C - 1`
(spec/30_encoding.md R47, spec/41_accumulating_transitions.md R61). -/
def State.guard (s : State) : Bool := decide (s.byteCount + 1 = s.cfg.C - 1)

/-- The states the spec gives a meaning (spec/10_state.md R21, R24). -/
abbrev State.Consistent (s : State) : Prop :=
  (s.state = .idle ↔ s.byteCount = 0) ∧
  (s.state = .accumulating → 1 ≤ s.byteCount ∧ s.byteCount ≤ s.cfg.C - 2)

/-- The code of a cause (spec/42_emission_and_sinks.md R64). -/
def causeCode : Cause → BitVec 2
  | .endSeen => 1#2
  | .restart => 2#2
  | .overflow => 3#2

end Sys2Proof.Machine
end

