-- ==== Sys2Proof/Machine/Operands.lean ====
section
/-! DEFINITION. The operands of a step (spec/30_encoding.md R44): the input byte, used unchanged, and the
implicit operands `state`, `byteCount` and the constants, which together select the transition. -/

namespace Sys2Proof.Machine

/-- The transition that byte `b` selects in state `s` (spec/30_encoding.md R47). -/
def State.select (s : State) (b : Byte) : Instr :=
  decode s.cfg (selectorOf s.state b) s.guard

/-- The condition of a transition's row (spec/30_encoding.md R47): state column, byte class column, further
condition. -/
def State.applies (s : State) (i : Instr) : Bool :=
  decide (s.state = i.fromState) && i.wellFormed s.cfg && i.admitsGuard s.guard

end Sys2Proof.Machine
end

