-- ==== Sys2Proof/Machine/Ops.lean ====
section
/-! DEFINITION. The named operations over the registers and the buffer, from which every meaning is built.
The block takes no exception and returns from none (spec/60_exceptions.md R79, R84, R85); what stands in their
place is `closeFrame`, the return to the resting state inside the step that ends a frame. -/

namespace Sys2Proof.Machine

/-- The outcome of a step of this machine. -/
abbrev Result := Host.Outcome State Fault Refusal

/-- Do `f` after a step has given a next state; a fault or a refusal stays. -/
def Result.andThen (r : Result) (f : State → Result) : Result :=
  match r with
  | .next s => f s
  | .fault e => .fault e
  | .refused e => .refused e

/-! ### Registers and ports -/

/-- `state <- v` (spec/00_scope.md R10). -/
def State.setState (s : State) (v : DecoderState) : State := { s with state := v }

/-- `byteCount <- n` (spec/10_state.md R14). -/
def State.setCount (s : State) (n : Nat) : State := { s with byteCount := n }

/-- The buffer replaced. -/
def State.setBuf (s : State) (m : Memory) : State := { s with buf := m }

/-- What the output ports present (spec/42_emission_and_sinks.md R63). -/
def State.setOut (s : State) (e : Option Emission) : State := { s with out := e }

/-- The pin values to come. -/
def State.setInput (s : State) (l : List Pins) : State := { s with input := l }

/-- One clock cycle further (log entry 8). -/
def State.advanceTick (s : State) : State := { s with tick := s.tick + 1 }

/-! ### Cells -/

/-- `buf[i]`: a cell that nothing has written holds its free value (spec/10_state.md R25; log entry 5). -/
def State.readCell (s : State) (i : Nat) : Byte := (s.buf.read? i).getD (Config.resetCell i)

/-- `MemRead(i, n)`: `n` cells from index `i`, lowest index first (spec/20_memory.md R34). -/
def State.readCells (s : State) (i n : Nat) : List Byte :=
  (List.range n).map fun k => s.readCell (i + k)

/-- `buf[i] <- v` (spec/20_memory.md R34). The cells are `0` to `C - 1` (R28); an index at or above `C`
faults. -/
def writeCell (i : Nat) (v : Byte) (s : State) : Result :=
  if i < s.cfg.C then .next (s.setBuf (s.buf.write i v)) else .fault (.outsideBuffer i)

/-! ### Shared operations of the transitions -/

/-- `append(b)`: the cell is written before the count moves (spec/41_accumulating_transitions.md R57). -/
def append (b : Byte) (s : State) : Result :=
  (writeCell s.byteCount b s).andThen fun t => .next (t.setCount (t.byteCount + 1))

/-- `emit(cause, n)`: present the snapshot `MemRead(0, n)` with its cause; no state of the block changes
(spec/42_emission_and_sinks.md R63, spec/20_memory.md R34). A read beyond the buffer faults. -/
def emit (cause : Cause) (n : Nat) (s : State) : Result :=
  if n ≤ s.cfg.C then .next (s.setOut (some ⟨cause, s.readCells 0 n⟩)) else .fault (.outsideBuffer s.cfg.C)

/-- The frame-opening assignments of `IDLE_OPEN` and `ACC_START`: `byteCount <- 0; buf[0] <- b;
byteCount <- 1; state <- Accumulating` (spec/40_idle_transitions.md R54, spec/41_accumulating_transitions.md
R59). -/
def openFrame (b : Byte) (s : State) : Result :=
  (writeCell 0 b (s.setCount 0)).andThen fun t => .next ((t.setCount 1).setState .accumulating)

/-- `byteCount <- 0; state <- Idle`: the logical clear that ends `ACC_END` and `ACC_OVERFLOW`, and what `rst`
writes (spec/41_accumulating_transitions.md R58, R61, spec/70_reset_and_hazards.md R93). No cell is written
(spec/10_state.md R16). -/
def closeFrame (s : State) : State := (s.setCount 0).setState .idle

/-- The store that the spec neither requires of `ACC_START` nor forbids: `buf[n] <- b` before the flush
(spec/41_accumulating_transitions.md R59 (e)). A free value says whether it happens. DESIGN CHOICE, safe; log
entry 7. -/
def storeBeforeFlush (b : Byte) (s : State) : Result :=
  writeCell s.byteCount (bif Config.accStartStores s.tick then b else s.readCell s.byteCount) s

/-- A step of transition `i`: refused where the spec gives it no meaning (spec/00_scope.md R6, R7,
spec/10_state.md R24, and outside its row of spec/30_encoding.md R47); else its assignments, begun with no
emission presented (spec/42_emission_and_sinks.md R65). -/
def takeTransition (i : Instr) (assignments : State → Result) (s : State) : Result :=
  if ¬ s.cfg.Legal then .refused .illegalConfig
  else if ¬ s.Consistent then .refused .unreachableState
  else if s.applies i then assignments (s.setOut none)
  else .refused (.notSelected i.mnemonic)

end Sys2Proof.Machine
end

