-- ==== Sys2Proof/Machine/Accumulating.lean ====
section
/-! DEFINITION. The transitions taken in `Accumulating` (spec/41_accumulating_transitions.md). -/

namespace Sys2Proof.Machine

/-- `ACC_END` (R58): append `b`, which is `END`, emit the frame with it, return to rest. -/
def execAccEnd (b : Byte) (s : State) : Result :=
  takeTransition (.accEnd b)
    (fun s₀ => (append b s₀).andThen fun s₁ =>
      (emit .endSeen s₁.byteCount s₁).andThen fun s₂ => .next (closeFrame s₂)) s

/-- `ACC_START` (R59): emit the frame as it stood before `b`, then open a new one with `b`. -/
def execAccStart (b : Byte) (s : State) : Result :=
  takeTransition (.accStart b)
    (fun s₀ => (storeBeforeFlush b s₀).andThen fun s₁ =>
      (emit .restart s₁.byteCount s₁).andThen (openFrame b)) s

/-- `ACC_DATA` (R60): append `b`. -/
def execAccData (b : Byte) (s : State) : Result :=
  takeTransition (.accData b) (append b) s

/-- `ACC_OVERFLOW` (R61): append `b`, emit the oversized frame, return to rest. -/
def execAccOverflow (b : Byte) (s : State) : Result :=
  takeTransition (.accOverflow b)
    (fun s₀ => (append b s₀).andThen fun s₁ =>
      (emit .overflow s₁.byteCount s₁).andThen fun s₂ => .next (closeFrame s₂)) s

end Sys2Proof.Machine
end

