-- ==== Sys2Proof/Machine/Idle.lean ====
section
/-! DEFINITION. The transitions taken in `Idle` (spec/40_idle_transitions.md). -/

namespace Sys2Proof.Machine

/-- `IDLE_DROP` (R53): no assignment; the byte is consumed and lost. -/
def execIdleDrop (b : Byte) (s : State) : Result :=
  takeTransition (.idleDrop b) .next s

/-- `IDLE_OPEN` (R54): open a frame with `b`, which is `START`. -/
def execIdleOpen (b : Byte) (s : State) : Result :=
  takeTransition (.idleOpen b) (openFrame b) s

end Sys2Proof.Machine
end

