-- ==== Sys2Proof/Machine/Dispatch.lean ====
section
/-! DEFINITION. One arm per transition. -/

namespace Sys2Proof.Machine

def exec (i : Instr) (s : State) : Host.Outcome State Fault Refusal :=
  match i with
  | .idleDrop b => Sys2Proof.Machine.execIdleDrop b s
  | .idleOpen b => Sys2Proof.Machine.execIdleOpen b s
  | .accEnd b => Sys2Proof.Machine.execAccEnd b s
  | .accStart b => Sys2Proof.Machine.execAccStart b s
  | .accData b => Sys2Proof.Machine.execAccData b s
  | .accOverflow b => Sys2Proof.Machine.execAccOverflow b s

end Sys2Proof.Machine
end

