-- ==== Sys2Proof/Machine/Cycle.lean ====
section
/-! DEFINITION. One clock cycle around `exec`: the pins are read, reset outranks a byte, and a byte selects
its transition. The placing of an instruction word where the next cycle reads it. -/

namespace Sys2Proof.Machine

/-- Pins in a cycle in which the environment presents nothing. -/
def Pins.quiet : Pins := { rst := false, inValid := false, inByte := 0#8 }

/-- Pins in a cycle that presents one byte (spec/30_encoding.md R42). -/
def Pins.ofByte (b : Byte) : Pins := { rst := false, inValid := true, inByte := b }

/-- Pins in a cycle with `rst` high and no byte (spec/70_reset_and_hazards.md R93). -/
def Pins.ofReset : Pins := { rst := true, inValid := false, inByte := 0#8 }

/-- The pins the next cycle reads; quiet where the environment presents nothing (spec/70_reset_and_hazards.md
R98, log entry 2). -/
def State.pins (s : State) : Pins := s.input.headD Pins.quiet

/-- The next cycle begun: its pins are taken and the cycle counted. -/
def State.beginCycle (s : State) : State := (s.setInput s.input.tail).advanceTick

/-- `reset()`: `state <- Idle`, `byteCount <- 0`, the buffer not written, no emission
(spec/70_reset_and_hazards.md R93, R96). -/
def resetCycle (s : State) : State := (closeFrame s).setOut none

/-- A cycle with neither `rst` nor `in_valid`: all state holds and nothing is presented
(spec/30_encoding.md R42, spec/42_emission_and_sinks.md R63). -/
def holdCycle (s : State) : State := s.setOut none

/-- One clock cycle (spec/70_reset_and_hazards.md R108): a configuration without meaning is refused
(spec/00_scope.md R6, R7); `rst` wins over a byte (R95); a byte takes the transition it selects. -/
def clockCycle (s : State) : Result :=
  if ¬ s.cfg.Legal then .refused .illegalConfig
  else if s.pins.rst then .next (resetCycle s.beginCycle)
  else if s.pins.inValid then exec (s.beginCycle.select s.pins.inByte) s.beginCycle
  else .next (holdCycle s.beginCycle)

/-- `s` in a state in which transitions of `st` can be taken with the guard false. The state is left alone
where it serves; else it is the resting state, or `Accumulating` with the shortest frame, `START` alone. -/
def State.placedIn (s : State) (st : DecoderState) : State :=
  match st with
  | .idle => if s.state = .idle then s else closeFrame s
  | .accumulating =>
    if s.state = .accumulating ∧ s.guard = false then s
    else ((s.setBuf (s.buf.write 0 s.cfg.START)).setCount 1).setState .accumulating

/-- `s` with the selector word `w` placed where the next cycle reads it: its byte is the next byte presented,
and the decoder state is the one its bit 8 names (log entry 4). -/
def State.placeWord (s : State) (nbits w : Nat) : State :=
  let sel : Selector := BitVec.ofNat 9 (w % 2 ^ nbits)
  let t := s.placedIn (selectorState sel)
  t.setInput (Pins.ofByte (selectorByte sel) :: t.input)

end Sys2Proof.Machine
end

