-- ==== Sys2Proof/Machine/Step.lean ====
section
/-! DEFINITION. The step of the machine: one clock cycle, and the placing of an instruction word for it. -/

namespace Sys2Proof.Machine

/-- One step of the machine is one clock cycle (spec/70_reset_and_hazards.md R108). -/
def step (s : State) : Host.Outcome State Fault Refusal := clockCycle s

/-- The instruction word `w` stored where the next step fetches it (log entry 4). -/
def State.withFetchWord (s : State) (nbits w : Nat) : State := s.placeWord nbits w

end Sys2Proof.Machine
end

