-- ==== Sys2Proof/Machine/Abstract.lean ====
section
/-! DEFINITION. The equivalent abstract state of spec/10_state.md R27, and the effect that each transition rule
restates on it (spec/40_idle_transitions.md R53, R54, spec/41_accumulating_transitions.md R58 to R61). It is a
second, independent reading of the six rules; the obligations relate it to the machine. -/

namespace Sys2Proof.Machine

/-- `DecoderState ::= Idle | Accumulating (frame)` (R27). -/
inductive AbsState where
  | idle
  | accumulating (frame : List Byte)
deriving DecidableEq, Repr

/-- The abstract states that stand for reachable states: `1 <= len(frame) <= C - 2` and `frame[0] == START`
(R27), no later byte a sentinel (R23). -/
def AbsState.Reachable (c : Config) : AbsState → Prop
  | .idle => True
  | .accumulating frame =>
    ∃ d : List Byte, frame = c.START :: d ∧ frame.length ≤ c.C - 2 ∧ ∀ x ∈ d, classify c x = .DATA

/-- What the registers stand for (R27). -/
def State.abs (s : State) : AbsState :=
  match s.state with
  | .idle => .idle
  | .accumulating => .accumulating (s.readCells 0 s.byteCount)

/-- The abstract effect of one byte: the next abstract state and the emission, the checks in the order of
spec/41_accumulating_transitions.md R56. -/
def absStep (c : Config) : AbsState → Byte → AbsState × Option Emission
  | .idle, b => if b = c.START then (.accumulating [c.START], none) else (.idle, none)
  | .accumulating f, b =>
    if b = c.END then (.idle, some ⟨.endSeen, f ++ [c.END]⟩)
    else if b = c.START then (.accumulating [c.START], some ⟨.restart, f⟩)
    else if f.length + 1 = c.C - 1 then (.idle, some ⟨.overflow, f ++ [b]⟩)
    else (.accumulating (f ++ [b]), none)

end Sys2Proof.Machine
end

