-- ==== Sys2Proof/Machine/Ports.lean ====
section
/-! DEFINITION. The output ports of spec/42_emission_and_sinks.md R63, as views of what the cycle just run
presents. -/

namespace Sys2Proof.Machine

/-- `out_valid`: high in a step that emits (R63). -/
def State.outValid (s : State) : Bool := s.out.isSome

/-- `out_cause`: the cause code, 0 when `out_valid` is low (R63, R64). -/
def State.outCause (s : State) : BitVec 2 :=
  match s.out with
  | none => 0#2
  | some e => causeCode e.cause

/-- `out_len`: the number of bytes, `W` bits, 0 when `out_valid` is low (R63). -/
def State.outLen (s : State) : BitVec s.cfg.W :=
  match s.out with
  | none => BitVec.ofNat s.cfg.W 0
  | some e => BitVec.ofNat s.cfg.W e.frame.length

/-- Byte `i` of `out_data`: byte `i` of the frame where there is one; elsewhere the bits carry no meaning and
are a free value (R63, spec/93_implementation_defined.md X10; log entry 9). -/
def State.outByte (s : State) (i : Nat) : Byte :=
  match s.out with
  | none => Config.freeOutByte s.tick i
  | some e => (e.frame[i]?).getD (Config.freeOutByte s.tick i)

/-- `k` bytes as one word, byte `i` in bits `8*i + 7 : 8*i` (R63). -/
def packBytes (f : Nat → Byte) : (k : Nat) → BitVec (8 * k)
  | 0 => 0#0
  | k + 1 => (f k ++ packBytes f k).cast (by omega)

/-- `out_data`, `8 * (C - 1)` bits (R63). -/
def State.outData (s : State) : BitVec (8 * (s.cfg.C - 1)) := packBytes s.outByte (s.cfg.C - 1)

end Sys2Proof.Machine
end

