-- ==== Sys2Proof/Machine/Sinks.lean ====
section
/-! DEFINITION. The two collaborators that receive every emission, as pure functions of it
(spec/42_emission_and_sinks.md R67 to R76). They are outside the block (spec/00_scope.md R3) and feed nothing
back to it. -/

namespace Sys2Proof.Machine

/-! ### The Frame Sink -/

/-- What the block hands to the Frame Sink: the bytes and their count, no cause (R67, R64). -/
structure SinkCall where
  frameBytes : List Byte
  length : Nat
deriving DecidableEq, Repr

/-- The Frame Sink is called in every step that emits, whatever the cause (R67, R71). -/
def State.sinkCall (s : State) : Option SinkCall :=
  s.out.map fun e => { frameBytes := e.frame, length := e.frame.length }

/-- The payload of the reference datagram (R68). -/
def dgram (p : SinkParams) (f : List Byte) : List Byte :=
  p.MAGIC.toList ++ [p.MFR_ID, p.BUS_ID, p.RSVD] ++ f

/-- A UDP datagram: destination address, destination port, payload (R70). -/
structure Datagram where
  address : BitVec 32
  port : BitVec 16
  payload : List Byte
deriving DecidableEq, Repr

/-- The one datagram the reference sink sends for a call, to the broadcast address `255.255.255.255` on the
configured port (R69, R70). Whether it is delivered is not modelled (R67). -/
def sinkDatagram (p : SinkParams) (call : SinkCall) : Datagram :=
  { address := 0xFFFFFFFF#32, port := p.UDP_PORT, payload := dgram p call.frameBytes }

/-! ### The diagnostic log -/

/-- A log call: whether it is the length-exceeded error, and the bytes (R75). -/
structure LogCall where
  isError : Bool
  bytes : List Byte
deriving DecidableEq, Repr

/-- The log is called in every step that emits, with the bytes the sink gets; as an error exactly when the
cause is `OVERFLOW` (R72, R75, R76). -/
def State.logCall (s : State) : Option LogCall :=
  s.out.map fun e => { isError := decide (e.cause = .overflow), bytes := e.frame }

/-- The character of a hexadecimal digit, upper case (R73). PRESUMED, unsafe: the character codes are the
spec's passage from general knowledge (R73, spec/93_implementation_defined.md G2); log entry 12. -/
def hexDigit (d : BitVec 4) : Byte :=
  if d.toNat < 10 then BitVec.ofNat 8 (0x30 + d.toNat) else BitVec.ofNat 8 (0x37 + d.toNat)

/-- `hex2(b)`: two characters, the high nibble first (R73). -/
def hex2 (b : Byte) : List Byte := [hexDigit (b.extractLsb' 4 4), hexDigit (b.extractLsb' 0 4)]

/-- The bytes of a frame as two-digit hexadecimal, one space between two of them and none after the last
(R73, R74). -/
def hexBytes : List Byte → List Byte
  | [] => []
  | [b] => hex2 b
  | b :: c :: f => hex2 b ++ 0x20#8 :: hexBytes (c :: f)

/-- `hexline(f)`: the frame's text and the line terminator (R73, R74). -/
def hexline (p : LogParams) (f : List Byte) : List Byte := hexBytes f ++ p.LOG_EOL

/-- The line of a log call: the error text first where it is the length-exceeded error (R75). -/
def logLine (p : LogParams) (call : LogCall) : List Byte :=
  (if call.isError then p.LOG_ERR_TEXT else []) ++ hexline p call.bytes

end Sys2Proof.Machine
end

