-- ==== Sys2Proof/Safety.lean ====
section
/-! DEFINITION. The terms in which claims are stated: the shapes of frames, the invariant of every step,
runs over byte streams, and what two states must share to be told apart by nothing. -/

namespace Sys2Proof.Machine

/-! ### Frames -/

/-- Length and content of an emitted frame by cause (spec/10_state.md R22, R23). -/
def Emission.Shape (c : Config) (e : Emission) : Prop :=
  ∃ d : List Byte, (∀ x ∈ d, classify c x = .DATA) ∧
    match e.cause with
    | .endSeen => e.frame = c.START :: d ++ [c.END] ∧ d.length ≤ c.C - 3
    | .restart => e.frame = c.START :: d ∧ d.length ≤ c.C - 3
    | .overflow => e.frame = c.START :: d ∧ d.length = c.C - 2

/-- The lengths of spec/10_state.md R22 alone. -/
def Emission.LengthInRange (c : Config) (e : Emission) : Prop :=
  match e.cause with
  | .endSeen => 2 ≤ e.frame.length ∧ e.frame.length ≤ c.C - 1
  | .restart => 1 ≤ e.frame.length ∧ e.frame.length ≤ c.C - 2
  | .overflow => e.frame.length = c.C - 1

/-- The cause of the emission a transition makes, `none` where it makes none (spec/42_emission_and_sinks.md
R64, R65). -/
def emissionCause : Instr → Option Cause
  | .idleDrop _ => none
  | .idleOpen _ => none
  | .accEnd _ => some .endSeen
  | .accStart _ => some .restart
  | .accData _ => none
  | .accOverflow _ => some .overflow

/-! ### The invariant -/

/-- What holds between steps: the parameters are legal; spec/10_state.md R21 and R23; the memory is in its
canonical form, lists no cell above `C - 2` (spec/20_memory.md R36) and lists every valid cell
(spec/10_state.md R16); and what the ports present has the shape of its cause. -/
structure State.Inv (s : State) : Prop where
  legal : s.cfg.Legal
  consistent : s.Consistent
  bufCanonical : s.buf.wf
  bufInBounds : ∀ cell ∈ s.buf, cell.1 ≤ s.cfg.C - 2
  validCellsWritten : ∀ i, i < s.byteCount → (s.buf.read? i).isSome = true
  startFirst : s.state = .accumulating → s.readCell 0 = s.cfg.START
  noSentinelAfter : ∀ i, 1 ≤ i → i < s.byteCount → classify s.cfg (s.readCell i) = .DATA
  outShape : ∀ e, s.out = some e → e.Shape s.cfg

/-! ### Runs -/

/-- The byte `b` presented in the next cycle. -/
def State.present (s : State) (b : Byte) : State := s.setInput (Pins.ofByte b :: s.input)

/-- The run over a byte stream: one step per byte, and the emissions in step order (spec/20_memory.md R37,
R38). It stops at the first fault or refusal. -/
def runBytes : List Byte → State → Host.Outcome (State × List Emission) Fault Refusal
  | [], s => .next (s, [])
  | b :: bs, s =>
    match step (s.present b) with
    | .fault e => .fault e
    | .refused e => .refused e
    | .next t =>
      match runBytes bs t with
      | .fault e => .fault e
      | .refused e => .refused e
      | .next (u, es) => .next (u, t.out.toList ++ es)

/-- The run of `k` clock cycles, each with the pins that `input` holds for it, and the emissions in cycle
order. It stops at the first fault or refusal. -/
def runCycles : Nat → State → Host.Outcome (State × List Emission) Fault Refusal
  | 0, s => .next (s, [])
  | k + 1, s =>
    match step s with
    | .fault e => .fault e
    | .refused e => .refused e
    | .next t =>
      match runCycles k t with
      | .fault e => .fault e
      | .refused e => .refused e
      | .next (u, es) => .next (u, t.out.toList ++ es)

/-! ### What can be observed -/

/-- Two states that differ only in what spec/10_state.md R16 hides, the cells at or above `byteCount`, and in
the model's own `tick` and last outputs. -/
structure AgreeOnVisible (s t : State) : Prop where
  cfg : t.cfg = s.cfg
  state : t.state = s.state
  byteCount : t.byteCount = s.byteCount
  input : t.input = s.input
  cells : ∀ i, i < s.byteCount → t.readCell i = s.readCell i

/-- No transition writes the constants, the inputs to come or the cycle counter (spec/10_state.md R19). -/
structure EnvironmentKept (s t : State) : Prop where
  cfg : t.cfg = s.cfg
  input : t.input = s.input
  tick : t.tick = s.tick

end Sys2Proof.Machine
end

