-- ==== Sys2Proof/Certificates/Slice0/Obligations.lean ====
section
/-! DEFINITION. The statements about the machine, for the provers. Each docstring says which rule of spec/ the
statement formalises. `n` in a docstring is `byteCount` at the start of the step. -/

open Sys2Proof Sys2Proof.Machine

/-! ### Encoding -/

/-- Encoding a well-formed transition and decoding the stored bytes, with the guard its row asks for, gives the
transition back, at every operand and in every legal configuration (spec/30_encoding.md R46, R47). The two bytes
that hold a selector are the model's choice (log entry 4). -/
def Obligations.DecodeEncode : Prop :=
  ∀ (c : Config) (i : Instr) (guard : Bool), c.Legal → i.wellFormed c = true → i.admitsGuard guard = true →
    decodeBytes c guard (encodeBytes i) = .ok i

/-- All 512 selectors select a transition, well-formed and of a row that admits the guard, and encoding it gives
the selector back: there are no illegal encodings (spec/30_encoding.md R48). -/
def Obligations.EverySelectorSelects : Prop :=
  ∀ (c : Config) (sel : Selector) (guard : Bool), c.Legal →
    encode (decode c sel guard) = sel ∧ (decode c sel guard).wellFormed c = true ∧
      (decode c sel guard).admitsGuard guard = true

/-- The decoder by byte classes and the table of match, mask and priority select the same row, for every
selector, guard and legal pair of sentinels (spec/30_encoding.md R45, R46, R47). -/
def Obligations.DecoderAgreesWithTable : Prop :=
  ∀ (c : Config) (sel : Selector) (guard : Bool), c.Legal →
    (tableRow c sel guard).map (fun row => row.mnemonic) = some (decode c sel guard).mnemonic

/-- Words written out from spec/opcode_table.json decode to their rows in the reference configuration; a word with
a bit above the selector's is none. The form of two bytes, that such a word is none, and that `0x100` reads as
`ACC_DATA` and not as `ACC_OVERFLOW` are the model's choices (log entry 4). -/
def Obligations.TableWordsDecode : Prop :=
  decodeTableWord 16 0x000 = some (.idleDrop 0x00#8) ∧
  decodeTableWord 16 0x055 = some (.idleDrop 0x55#8) ∧
  decodeTableWord 16 0x0AA = some (.idleOpen 0xAA#8) ∧
  decodeTableWord 16 0x155 = some (.accEnd 0x55#8) ∧
  decodeTableWord 16 0x1AA = some (.accStart 0xAA#8) ∧
  decodeTableWord 16 0x100 = some (.accData 0x00#8) ∧
  decodeTableWord 16 0x1FF = some (.accData 0xFF#8) ∧
  decodeTableWord 16 0x2AA = none

/-! ### The step around the transitions -/

/-- A cycle with `in_valid` high and `rst` low runs the transition that the selector of the state register and the
input byte, with the overflow guard, decodes to, on registers and a buffer that are those before
(spec/30_encoding.md R42, R46, spec/70_reset_and_hazards.md R108). Three clauses are the model's choices, which
those rules do not speak of: the two bytes that hold the selector in the hypothesis (log entry 4), that the
remaining pins are left to come in `input` (log entry 2), and that `tick` counts one more cycle (log entry 8). -/
def Obligations.StepRunsDecodedTransition : Prop :=
  ∀ (s : State) (i : Instr), s.cfg.Legal → s.pins.rst = false → s.pins.inValid = true →
    decodeBytes s.cfg s.guard [s.pins.inByte, (0#7 : BitVec 7) ++ s.state.code] = .ok i →
    step s = exec i s.beginCycle ∧
      s.beginCycle.cfg = s.cfg ∧ s.beginCycle.state = s.state ∧ s.beginCycle.byteCount = s.byteCount ∧
      s.beginCycle.buf = s.buf ∧ s.beginCycle.input = s.input.tail ∧ s.beginCycle.tick = s.tick + 1

/-- With a capacity of at least 4, the word placed by `withFetchWord` is the one the next step runs, with the guard
false. The placing is the model's choice (log entry 4), and so is the list `input` that it fills (log entry 2). -/
def Obligations.PlacedWordRuns : Prop :=
  ∀ (s : State) (nbits w : Nat), s.cfg.Legal → 4 ≤ s.cfg.C →
    let sel : Selector := BitVec.ofNat 9 (w % 2 ^ nbits)
    (s.withFetchWord nbits w).pins = Pins.ofByte (selectorByte sel) ∧
      step (s.withFetchWord nbits w) = exec (decode s.cfg sel false) (s.withFetchWord nbits w).beginCycle

/-- A cycle with `rst` high resets, from every state of a legal configuration and whatever `in_valid` and `in_byte`
are: `Idle`, count 0, the buffer not written, nothing emitted and nothing logged
(spec/70_reset_and_hazards.md R93, R95, R96). Four clauses are the model's choices, which those rules do not speak
of: that the constants are kept as the field `cfg` (log entry 1), that the remaining pins are left to come in
`input` (log entry 2), that `tick` counts one more cycle (log entry 8), and that a state outside
spec/10_state.md R21 is reset like any other (log entry 11). -/
def Obligations.ResetOutranksByte : Prop :=
  ∀ s : State, s.cfg.Legal → s.pins.rst = true →
    ∃ t, step s = .next t ∧ t.state = .idle ∧ t.byteCount = 0 ∧ t.buf = s.buf ∧ t.out = none ∧
      t.sinkCall = none ∧ t.logCall = none ∧
      t.cfg = s.cfg ∧ t.input = s.input.tail ∧ t.tick = s.tick + 1

/-- A cycle with `rst` and `in_valid` low takes no step: `state`, `byteCount` and the buffer hold, and nothing is
presented (spec/30_encoding.md R42, spec/42_emission_and_sinks.md R63). Four clauses are the model's choices, which
those rules do not speak of: that the constants are kept as the field `cfg` (log entry 1), that the remaining pins
are left to come in `input` (log entry 2), that `tick` counts one more cycle (log entry 8), and that a state outside
spec/10_state.md R21 holds like any other (log entry 11). -/
def Obligations.CycleWithoutByteHolds : Prop :=
  ∀ s : State, s.cfg.Legal → s.pins.rst = false → s.pins.inValid = false →
    ∃ t, step s = .next t ∧ t.state = s.state ∧ t.byteCount = s.byteCount ∧ t.buf = s.buf ∧ t.out = none ∧
      t.cfg = s.cfg ∧ t.input = s.input.tail ∧ t.tick = s.tick + 1

/-- A configuration with `C < 3` or `START == END` is refused (spec/00_scope.md R6, R7, by the spec's decisions D6 and
D7). That every step refuses it, one without a byte too, is the model's choice (log entry 11). -/
def Obligations.IllegalConfigurationRefused : Prop :=
  ∀ s : State, s.cfg.C < 3 ∨ s.cfg.START = s.cfg.END → step s = .refused .illegalConfig

/-- A byte presented in a state outside spec/10_state.md R21 is refused (R24). To refuse such a state, which the rule
offers beside making it unrepresentable, is the model's choice (log entry 11). -/
def Obligations.UnreachableStateRefused : Prop :=
  ∀ s : State, s.cfg.Legal → ¬ s.Consistent → s.pins.rst = false → s.pins.inValid = true →
    step s = .refused .unreachableState

/-! ### One statement of result and frame per transition -/

/-- `IDLE_DROP`: in `Idle`, a byte other than `START` changes nothing and emits nothing
(spec/40_idle_transitions.md R53). The fields of `EnvironmentKept`, and `out` to read the emission in, are the
model's own (log entries 1, 2, 3, 8). -/
def Obligations.IdleDropChangesNothing : Prop :=
  ∀ (b : Byte) (s : State), s.cfg.Legal → s.state = .idle → s.byteCount = 0 → b ≠ s.cfg.START →
    ∃ t, exec (.idleDrop b) s = .next t ∧ t.state = .idle ∧ t.byteCount = 0 ∧ t.out = none ∧
      (∀ i, t.buf.read? i = s.buf.read? i) ∧ EnvironmentKept s t

/-- `IDLE_OPEN`: in `Idle`, `START` is stored in cell 0, the count becomes 1 and the state `Accumulating`; nothing is
emitted and no other cell changes (spec/40_idle_transitions.md R54). The fields of `EnvironmentKept`, and `out` to
read the emission in, are the model's own (log entries 1, 2, 3, 8). -/
def Obligations.IdleOpenOpensFrame : Prop :=
  ∀ (b : Byte) (s : State), s.cfg.Legal → s.state = .idle → s.byteCount = 0 → b = s.cfg.START →
    ∃ t, exec (.idleOpen b) s = .next t ∧ t.state = .accumulating ∧ t.byteCount = 1 ∧ t.out = none ∧
      (∀ i, t.buf.read? i = if i = 0 then some b else s.buf.read? i) ∧ EnvironmentKept s t

/-- `ACC_END`: `END` is appended in cell `n`, the `n + 1` bytes are emitted with cause `END_SEEN`, and the block
returns to (`Idle`, 0); no other cell changes (spec/41_accumulating_transitions.md R57, R58). The cells past the
count keep their bytes as the pseudocode leaves them, which spec/10_state.md R16 allows and does not ask (log entry
6). The fields of `EnvironmentKept`, and `out` to read the emission in, are the model's own (log entries 1, 2, 3,
8). -/
def Obligations.AccEndEmitsClosedFrame : Prop :=
  ∀ (b : Byte) (s : State), s.cfg.Legal → s.state = .accumulating → 1 ≤ s.byteCount →
    s.byteCount ≤ s.cfg.C - 2 → b = s.cfg.END →
    ∃ t, exec (.accEnd b) s = .next t ∧ t.state = .idle ∧ t.byteCount = 0 ∧
      t.out = some ⟨.endSeen, s.readCells 0 s.byteCount ++ [b]⟩ ∧
      (∀ i, t.buf.read? i = if i = s.byteCount then some b else s.buf.read? i) ∧ EnvironmentKept s t

/-- `ACC_START`: the `n` bytes before the new `START` are emitted with cause `RESTART`, then `START` is stored in cell
0, the count becomes 1 and the state stays `Accumulating`. Cell `n` holds the byte or what it held, which of the
two is open (R59 (e), log entry 7); no other cell changes (spec/41_accumulating_transitions.md R59). The cells past
the count keep their bytes as the pseudocode leaves them, which spec/10_state.md R16 allows and does not ask (log
entry 6). The fields of `EnvironmentKept`, and `out` to read the emission in, are the model's own (log entries 1, 2,
3, 8). -/
def Obligations.AccStartFlushesAndReopens : Prop :=
  ∀ (b : Byte) (s : State), s.cfg.Legal → s.state = .accumulating → 1 ≤ s.byteCount →
    s.byteCount ≤ s.cfg.C - 2 → b = s.cfg.START →
    ∃ t, exec (.accStart b) s = .next t ∧ t.state = .accumulating ∧ t.byteCount = 1 ∧
      t.out = some ⟨.restart, s.readCells 0 s.byteCount⟩ ∧
      t.buf.read? 0 = some b ∧
      (t.readCell s.byteCount = b ∨ t.readCell s.byteCount = s.readCell s.byteCount) ∧
      (∀ i, i ≠ 0 → i ≠ s.byteCount → t.buf.read? i = s.buf.read? i) ∧ EnvironmentKept s t

/-- `ACC_DATA`: a byte that is no sentinel is appended in cell `n` when that does not bring the count to `C - 1`;
nothing is emitted and no other cell changes (spec/41_accumulating_transitions.md R57, R60). The cells past the
count keep their bytes as the pseudocode leaves them, which spec/10_state.md R16 allows and does not ask (log entry
6). The fields of `EnvironmentKept`, and `out` to read the emission in, are the model's own (log entries 1, 2, 3,
8). -/
def Obligations.AccDataAppends : Prop :=
  ∀ (b : Byte) (s : State), s.cfg.Legal → s.state = .accumulating → 1 ≤ s.byteCount →
    s.byteCount ≤ s.cfg.C - 3 → b ≠ s.cfg.START → b ≠ s.cfg.END →
    ∃ t, exec (.accData b) s = .next t ∧ t.state = .accumulating ∧ t.byteCount = s.byteCount + 1 ∧
      t.out = none ∧
      (∀ i, t.buf.read? i = if i = s.byteCount then some b else s.buf.read? i) ∧ EnvironmentKept s t

/-- `ACC_OVERFLOW`: a byte that is no sentinel and brings the count to `C - 1` is appended in cell `n = C - 2`, the
`C - 1` bytes are emitted with cause `OVERFLOW`, and the block returns to (`Idle`, 0); no other cell changes
(spec/41_accumulating_transitions.md R57, R61). The cells past the count keep their bytes as the pseudocode leaves
them, which spec/10_state.md R16 allows and does not ask (log entry 6). The fields of `EnvironmentKept`, and `out`
to read the emission in, are the model's own (log entries 1, 2, 3, 8). -/
def Obligations.AccOverflowFlushesFullBuffer : Prop :=
  ∀ (b : Byte) (s : State), s.cfg.Legal → s.state = .accumulating → s.byteCount = s.cfg.C - 2 →
    b ≠ s.cfg.START → b ≠ s.cfg.END →
    ∃ t, exec (.accOverflow b) s = .next t ∧ t.state = .idle ∧ t.byteCount = 0 ∧
      t.out = some ⟨.overflow, s.readCells 0 (s.cfg.C - 2) ++ [b]⟩ ∧
      (∀ i, t.buf.read? i = if i = s.byteCount then some b else s.buf.read? i) ∧ EnvironmentKept s t

/-! ### The transition map as a whole -/

/-- The whole map of spec/30_encoding.md R47: in every legal configuration and every state of
spec/10_state.md R21, every byte takes a step whose next state, next `byteCount`, emission cause and emission
length are those of the one row that the selector and the guard select. -/
def Obligations.StepFollowsTransitionMap : Prop :=
  ∀ (s : State) (b : Byte), s.cfg.Legal → s.Consistent →
    ∃ t row, step (s.present b) = .next t ∧
      tableRow s.cfg (selectorOf s.state b) s.guard = some row ∧
      t.state = row.nextState ∧ t.byteCount = row.nextCount.getD (s.byteCount + 1) ∧
      t.out.map (fun e => (e.cause, e.frame.length)) =
        row.emission.map (fun e => (e.1, s.byteCount + e.2))

/-- For every byte exactly one transition runs (spec/30_encoding.md R48, spec/41_accumulating_transitions.md R56).
That `exec` refuses the others, asked for them, is the model's choice (log entry 11). -/
def Obligations.ExactlyOneTransitionRuns : Prop :=
  ∀ (s : State) (b : Byte), s.cfg.Legal → s.Consistent →
    ∃! i : Instr, i.byte = b ∧ ∃ t, exec i s = .next t

/-- A transition runs exactly where the spec gives it a meaning: legal parameters, a state of
spec/10_state.md R21, and the state, byte class and guard of its row of spec/30_encoding.md R47. That it is refused
elsewhere is the model's choice (log entry 11). -/
def Obligations.TransitionRunsIffRowApplies : Prop :=
  ∀ (i : Instr) (s : State),
    (∃ t, exec i s = .next t) ↔
      s.cfg.Legal ∧ s.Consistent ∧ s.state = i.fromState ∧ i.wellFormed s.cfg = true ∧
        i.admitsGuard s.guard = true

/-- `END` first, `START` second, the overflow guard third, at the one count where they could coincide, `C - 2`
(spec/60_exceptions.md R81, R82): `END` gives a frame of `C - 1` bytes with cause `END_SEEN` and no error; `START`
the `C - 2` bytes with cause `RESTART` and no error; any other byte an `OVERFLOW` of `C - 1` bytes, logged as an
error. -/
def Obligations.SentinelsOutrankGuard : Prop :=
  ∀ (s : State) (b : Byte), s.cfg.Legal → s.state = .accumulating → s.byteCount = s.cfg.C - 2 →
    ∃ t call f, step (s.present b) = .next t ∧ t.logCall = some call ∧ t.out = some f ∧
      if b = s.cfg.END then f.cause = .endSeen ∧ f.frame.length = s.cfg.C - 1 ∧ call.isError = false
      else if b = s.cfg.START then f.cause = .restart ∧ f.frame.length = s.cfg.C - 2 ∧ call.isError = false
      else f.cause = .overflow ∧ f.frame.length = s.cfg.C - 1 ∧ call.isError = true

/-- In `Idle` the block depends on the byte only through the test `b == START` (spec/40_idle_transitions.md R55). -/
def Obligations.IdleIgnoresAllButStart : Prop :=
  ∀ (s : State) (b b' : Byte), s.cfg.Legal → s.state = .idle → s.byteCount = 0 →
    b ≠ s.cfg.START → b' ≠ s.cfg.START →
    step (s.present b) = step (s.present b') ∧
      ∃ t, step (s.present b) = .next t ∧ t.state = .idle ∧ t.byteCount = 0 ∧ t.out = none

/-! ### Invariants -/

/-- Every step keeps the invariant `State.Inv`: legal parameters; `Idle` exactly when the count is 0, and `1` to
`C - 2` in `Accumulating`; `START` first and no other sentinel in the valid cells; every valid cell written; the
memory canonical, with no cell above `C - 2`; and every emission of the length and content of its cause
(spec/10_state.md R21, R22, R23, spec/20_memory.md R36, each an inference that the spec marks as its own). The
canonical memory with its written cells listed, and the emission held in `out`, are the model's form of these (log
entries 3, 5). -/
def Obligations.StepKeepsInvariant : Prop :=
  ∀ s t : State, s.Inv → step s = .next t → t.Inv

/-- The state after reset has the invariant, for every legal configuration and so for the reference one
(spec/70_reset_and_hazards.md R94). -/
def Obligations.ResetHasInvariant : Prop :=
  (∀ c : Config, c.Legal → (State.initial c).Inv) ∧ State.reset.Inv

/-- After reset the block is (`Idle`, 0) and emits nothing (spec/10_state.md R25, spec/70_reset_and_hazards.md R94,
R96), and no cell has been written. That an unwritten cell reads as the free value (log entry 5), and the fields `cfg`
and `out` with their values (log entries 1, 3), are the model's choices. -/
def Obligations.ResetStateValues : Prop :=
  ∀ c : Config, (State.initial c).cfg = c ∧ (State.initial c).state = .idle ∧ (State.initial c).byteCount = 0 ∧
    (State.initial c).out = none ∧
    ∀ i, (State.initial c).buf.read? i = none ∧ (State.initial c).readCell i = Config.resetCell i

/-- `Idle` exactly when the count is 0, and `1 <= byteCount <= C - 2` in `Accumulating`: this holds after reset of every
legal instance and every step keeps it; so the count is never `C`, and no step writes cell `C - 1`
(spec/10_state.md R21, which the spec marks as derived by induction over steps). -/
def Obligations.ReachableStatesClosed : Prop :=
  (∀ c : Config, c.Legal → (State.initial c).Consistent) ∧
  ∀ s t : State, s.Consistent → step s = .next t →
    t.Consistent ∧ t.byteCount ≠ t.cfg.C ∧ t.buf.read? (t.cfg.C - 1) = s.buf.read? (t.cfg.C - 1)

/-- `0 <= byteCount <= C` holds after reset and is kept by every step, from any state of any configuration
(spec/10_state.md R20). -/
def Obligations.CountNeverExceedsCapacity : Prop :=
  (∀ c : Config, 0 ≤ (State.initial c).byteCount ∧ (State.initial c).byteCount ≤ (State.initial c).cfg.C) ∧
  ∀ s t : State, s.byteCount ≤ s.cfg.C → step s = .next t → 0 ≤ t.byteCount ∧ t.byteCount ≤ t.cfg.C

/-- No step changes the constants of the instance (spec/10_state.md R19); every step takes the pins of one cycle from
`input`, and adds one to `tick`. The last two are the model's choices: the list `input` of the pins to come (log
entry 2), read as one step a cycle with at most one byte in it (spec/30_encoding.md R42, spec/70_reset_and_hazards.md
R101, R108), and the model's own cycle counter `tick` (log entry 8). -/
def Obligations.ConfigurationNeverChanges : Prop :=
  ∀ s t : State, step s = .next t → t.cfg = s.cfg ∧ t.input = s.input.tail ∧ t.tick = s.tick + 1

/-- No step writes a cell at or above index `C - 1` (spec/20_memory.md R36). -/
def Obligations.LastCellNeverWritten : Prop :=
  ∀ s t : State, step s = .next t → ∀ i, s.cfg.C - 1 ≤ i → t.buf.read? i = s.buf.read? i

/-- No step faults, from any state of any configuration (spec/60_exceptions.md R79, spec/20_memory.md R36). The fault
that is never raised is the model's (log entry 14), and outside the legal configurations and the states of
spec/10_state.md R21 a step refuses instead by the model's choice (log entry 11). -/
def Obligations.NoStepFaults : Prop :=
  ∀ (s : State) (e : Fault), step s ≠ .fault e

/-- The length of an emitted frame by cause (spec/10_state.md R22): `END_SEEN` 2 to `C - 1`, `RESTART` 1 to `C - 2`,
`OVERFLOW` exactly `C - 1`; so never 0 and never `C` or more. The spec marks the rule as derived from R21 and the
transition rules. -/
def Obligations.EmissionLengthByCause : Prop :=
  ∀ (s t : State) (e : Emission), step s = .next t → t.out = some e →
    e.LengthInRange s.cfg ∧ e.frame.length ≠ 0 ∧ e.frame.length < s.cfg.C ∧
      (s.cfg = Config.reference → e.frame.length ≤ 127)

/-- After a step that emits, the block is (`Idle`, 0), or, after a restart alone, (`Accumulating`, 1)
(spec/41_accumulating_transitions.md R59 (d), spec/60_exceptions.md R85). -/
def Obligations.RestsAfterEmission : Prop :=
  ∀ (s t : State) (e : Emission), step s = .next t → t.out = some e →
    if e.cause = .restart then t.state = .accumulating ∧ t.byteCount = 1
    else t.state = .idle ∧ t.byteCount = 0

/-- `W` is the least width whose values include `C`, that is `ceil(log2(C + 1))`, 8 in the reference configuration;
`LMAX = C - 1`, 127 in the reference configuration, is the greatest length an emitted frame can have: no step
emits more and some step emits that many (spec/00_scope.md R8, where `W` is the spec's decision D5 and `LMAX` is
marked as derived from spec/10_state.md R22). -/
def Obligations.DerivedConstants : Prop :=
  (∀ c : Config, c.Legal →
    (c.C < 2 ^ c.W ∧ (∀ k, c.C < 2 ^ k → c.W ≤ k) ∧ c.W = Nat.clog 2 (c.C + 1)) ∧
    c.LMAX = c.C - 1 ∧
    (∀ (s t : State) (e : Emission), s.cfg = c → step s = .next t → t.out = some e → e.frame.length ≤ c.LMAX) ∧
    ∃ (s t : State) (e : Emission), s.cfg = c ∧ step s = .next t ∧ t.out = some e ∧ e.frame.length = c.LMAX) ∧
  Config.reference.W = 8 ∧ Config.reference.LMAX = 127

/-! ### What cannot be observed, and the abstract machine -/

/-- Cells at or above `byteCount` cannot be observed: of two states that differ only in them (and in two fields of
the model's own, the last emission `out` and the cycle counter `tick`, log entries 3 and 8), every step gives the
same outcome, the same emission and again two such states (spec/10_state.md R16). -/
def Obligations.HiddenCellsUnobservable : Prop :=
  ∀ s t s' : State, AgreeOnVisible s t → step s = .next s' →
    ∃ t', step t = .next t' ∧ AgreeOnVisible s' t' ∧ t'.out = s'.out

/-- Whatever the buffer holds at reset, every byte stream gives the same emissions (spec/10_state.md R25). The
contents are listed in place of the free values that the model gives unwritten cells (log entry 5). -/
def Obligations.ResetContentsUnobservable : Prop :=
  ∀ (c : Config) (m : Memory) (bs : List Byte) (t : State) (es : List Emission),
    runBytes bs (State.initial c) = .next (t, es) →
    ∃ u, runBytes bs ((State.initial c).setBuf m) = .next (u, es) ∧ AgreeOnVisible t u

/-- The machine on registers refines the abstract machine of spec/10_state.md R27: from every state of R21 every byte
takes a step whose next abstract state and emission are those the transition rules restate (R53, R54, R58 to
R61). -/
def Obligations.RefinesAbstractMachine : Prop :=
  ∀ (s : State) (b : Byte), s.cfg.Legal → s.Consistent →
    ∃ t, step (s.present b) = .next t ∧ (t.abs, t.out) = absStep s.cfg s.abs b

/-- The states reached from reset and the abstract states correspond (spec/10_state.md R27): a state with the invariant
stands for a reachable abstract state; every reachable abstract state is stood for by a state that a byte stream
reaches from reset without an emission; and two states with the invariant that stand for the same one agree on
all that is visible of the registers and the buffer. -/
def Obligations.AbstractStatesCorrespond : Prop :=
  (∀ s : State, s.Inv → s.abs.Reachable s.cfg) ∧
  (∀ (c : Config) (a : AbsState), c.Legal → a.Reachable c →
    ∃ bs s, runBytes bs (State.initial c) = .next (s, []) ∧ s.abs = a) ∧
  (∀ s t : State, s.Inv → t.Inv → s.cfg = t.cfg → s.abs = t.abs →
    t.state = s.state ∧ t.byteCount = s.byteCount ∧ ∀ i, i < s.byteCount → t.readCell i = s.readCell i)

/-! ### Byte streams -/

/-- Every byte stream runs to its end from every state of spec/10_state.md R21, and ends in one: no byte is refused
(spec/30_encoding.md R48). -/
def Obligations.EveryStreamRuns : Prop :=
  ∀ (bs : List Byte) (s : State), s.cfg.Legal → s.Consistent →
    ∃ t es, runBytes bs s = .next (t, es) ∧ t.cfg = s.cfg ∧ t.Consistent

/-- Round trip: from `Idle`, `START`, up to `C - 3` bytes that are no sentinels, `END` give exactly one emission, those
bytes, byte for byte, and the block is at rest (spec/10_state.md R23, spec/20_memory.md R31). -/
def Obligations.FrameRoundTrip : Prop :=
  ∀ (s : State) (d : List Byte), s.cfg.Legal → s.state = .idle → s.byteCount = 0 →
    (∀ x ∈ d, classify s.cfg x = .DATA) → d.length ≤ s.cfg.C - 3 →
    ∃ t, runBytes (s.cfg.START :: d ++ [s.cfg.END]) s =
        .next (t, [⟨.endSeen, s.cfg.START :: d ++ [s.cfg.END]⟩]) ∧
      t.state = .idle ∧ t.byteCount = 0

/-- A long frame is cut and its tail lost: from `Idle`, `START`, more than `C - 3` bytes that are no sentinels, `END`
give exactly one emission, the first `C - 1` bytes, with cause `OVERFLOW`; the rest and the `END` are dropped
(spec/70_reset_and_hazards.md R106). -/
def Obligations.LongFrameCut : Prop :=
  ∀ (s : State) (d : List Byte), s.cfg.Legal → s.state = .idle → s.byteCount = 0 →
    (∀ x ∈ d, classify s.cfg x = .DATA) → s.cfg.C - 3 < d.length →
    ∃ t, runBytes (s.cfg.START :: d ++ [s.cfg.END]) s =
        .next (t, [⟨.overflow, s.cfg.START :: d.take (s.cfg.C - 2)⟩]) ∧
      t.state = .idle ∧ t.byteCount = 0

/-- A new `START` before the `END` flushes the aborted frame, without the new `START`, and opens the next
(spec/41_accumulating_transitions.md R59, spec/60_exceptions.md R78). -/
def Obligations.AbortedFrameFlushed : Prop :=
  ∀ (s : State) (d d' : List Byte), s.cfg.Legal → s.state = .idle → s.byteCount = 0 →
    (∀ x ∈ d, classify s.cfg x = .DATA) → (∀ x ∈ d', classify s.cfg x = .DATA) →
    d.length ≤ s.cfg.C - 3 → d'.length ≤ s.cfg.C - 3 →
    ∃ t, runBytes (s.cfg.START :: d ++ s.cfg.START :: d' ++ [s.cfg.END]) s =
        .next (t, [⟨.restart, s.cfg.START :: d⟩, ⟨.endSeen, s.cfg.START :: d' ++ [s.cfg.END]⟩]) ∧
      t.state = .idle ∧ t.byteCount = 0

/-- From `Idle`, a stream without `START` emits nothing (spec/40_idle_transitions.md R53 (c)). -/
def Obligations.NoStartNoEmission : Prop :=
  ∀ (bs : List Byte) (s : State), s.cfg.Legal → s.state = .idle → s.byteCount = 0 → s.cfg.START ∉ bs →
    ∃ t, runBytes bs s = .next (t, []) ∧ t.state = .idle ∧ t.byteCount = 0

/-- From `Idle`, the emitted frames one after another are a subsequence of the byte stream: a byte is stored once and
emitted once, or dropped, and nothing is reordered or made up (spec/20_memory.md R31, R37). -/
def Obligations.EmittedBytesAreSubsequence : Prop :=
  ∀ (bs : List Byte) (s t : State) (es : List Emission), s.state = .idle →
    runBytes bs s = .next (t, es) → (es.flatMap fun e => e.frame).Sublist bs

/-- At most one emission per step: `IDLE_DROP`, `IDLE_OPEN` and `ACC_DATA` emit nothing, `ACC_END`, `ACC_START` and
`ACC_OVERFLOW` emit exactly once, each with its own cause; a reset emits nothing; over a stream there are at most as
many emissions as bytes; and no emission is empty (spec/42_emission_and_sinks.md R65, which the spec marks as
derived from the transition rules). -/
def Obligations.AtMostOneEmissionPerStep : Prop :=
  (∀ (i : Instr) (s t : State), exec i s = .next t → t.out.map (fun e => e.cause) = emissionCause i) ∧
  (∀ s t : State, s.pins.rst = true → step s = .next t → t.out = none) ∧
  ∀ (bs : List Byte) (s t : State) (es : List Emission), runBytes bs s = .next (t, es) →
    es.length ≤ bs.length ∧ ∀ e ∈ es, 1 ≤ e.frame.length

/-- Without a byte nothing is ever emitted, however many cycles pass and whatever `rst` does; and where `rst` stays low
a partial frame waits unchanged: there is no flush and no timeout (spec/60_exceptions.md R88,
spec/70_reset_and_hazards.md R105). That the cycles to come are the list `input` (log entry 2), and that a state
outside spec/10_state.md R21 holds and resets like any other (log entry 11), are the model's choices. -/
def Obligations.PartialFrameWaitsForByte : Prop :=
  ∀ (k : Nat) (s : State), s.cfg.Legal → (∀ p ∈ s.input, p.inValid = false) →
    ∃ t : State, runCycles k s = .next (t, []) ∧
      ((∀ p ∈ s.input, p.rst = false) →
        t.state = s.state ∧ t.byteCount = s.byteCount ∧ t.buf = s.buf)

/-! ### Ports and receivers -/

/-- After every step the output ports show what was emitted: low and zero where nothing was; else the code of the cause,
the length, and byte `i` of the frame in bits `8*i + 7 : 8*i` of `out_data` (spec/42_emission_and_sinks.md R63,
R64). That the ports of a cycle are read from the field `out` after its step is the model's choice (log entry
3). -/
def Obligations.PortsPresentEmission : Prop :=
  ∀ s t : State, step s = .next t →
    (t.out = none → t.outValid = false ∧ t.outCause = 0#2 ∧ t.outLen.toNat = 0) ∧
    ∀ e, t.out = some e →
      t.outValid = true ∧
      (t.outCause = 1#2 ↔ e.cause = .endSeen) ∧ (t.outCause = 2#2 ↔ e.cause = .restart) ∧
      (t.outCause = 3#2 ↔ e.cause = .overflow) ∧
      t.outLen.toNat = e.frame.length ∧
      ∀ i, (h : i < e.frame.length) → t.outData.extractLsb' (8 * i) 8 = e.frame[i]

/-- In every step that emits, the sink and the log get the same bytes, those of the emission, and in a step that does not
neither gets anything; and the sink gets their count with them (spec/42_emission_and_sinks.md R76, which the spec marks
as derived from R63, and R67). Both calls are read from the field `out`, the model's own (log entries 3, 13). -/
def Obligations.SinkAndLogAgree : Prop :=
  ∀ s : State, s.sinkCall.map (fun call => call.frameBytes) = s.logCall.map (fun call => call.bytes) ∧
    s.sinkCall.map (fun call => call.frameBytes) = s.out.map (fun e => e.frame) ∧
    (s.out = none → s.sinkCall = none ∧ s.logCall = none) ∧
    ∀ call, s.sinkCall = some call → call.length = call.frameBytes.length

/-- The reference datagram: the ten characters `HVAC_shark`, then 1, 0, 0, then the frame as captured, from offset 13,
sent to `255.255.255.255` on the configured port (spec/42_emission_and_sinks.md R68, R70). The character codes
are presumed (log entry 12); the header constants and the port are parameters by the spec's decisions D24 and
D20. -/
def Obligations.DatagramLayout : Prop :=
  ∀ (port : BitVec 16) (call : SinkCall),
    (sinkDatagram (SinkParams.reference port) call).payload =
      "HVAC_shark".toList.map (fun ch => BitVec.ofNat 8 ch.toNat) ++ [1#8, 0#8, 0#8] ++ call.frameBytes ∧
    (∀ i, (sinkDatagram (SinkParams.reference port) call).payload[13 + i]? = call.frameBytes[i]?) ∧
    (sinkDatagram (SinkParams.reference port) call).address = BitVec.ofNat 32 (255 * (2 ^ 24 + 2 ^ 16 + 2 ^ 8 + 1)) ∧
    (sinkDatagram (SinkParams.reference port) call).port = port

/-- The payload of a datagram is 13 bytes longer than the frame; in every step that emits, between 14 and `C + 12` bytes,
between 14 and 140 in the reference configuration (spec/42_emission_and_sinks.md R69). The worked example, the
frame `AA 01 02 55`, is one the rule marks as derived; its header bytes rest on character codes that are presumed
(spec/42_emission_and_sinks.md R68, spec/93_implementation_defined.md G1, log entry 12). -/
def Obligations.DatagramSize : Prop :=
  (∀ port : BitVec 16, (sinkDatagram (SinkParams.reference port) ⟨[0xAA#8, 0x01#8, 0x02#8, 0x55#8], 4⟩).payload =
    [0x48#8, 0x56#8, 0x41#8, 0x43#8, 0x5F#8, 0x73#8, 0x68#8, 0x61#8, 0x72#8, 0x6B#8, 0x01#8, 0x00#8, 0x00#8,
      0xAA#8, 0x01#8, 0x02#8, 0x55#8]) ∧
  ∀ (p : SinkParams) (s t : State) (call : SinkCall), step s = .next t → t.sinkCall = some call →
    (sinkDatagram p call).payload.length = 13 + call.length ∧
    14 ≤ (sinkDatagram p call).payload.length ∧ (sinkDatagram p call).payload.length ≤ s.cfg.C + 12 ∧
    (s.cfg = Config.reference → (sinkDatagram p call).payload.length ≤ 140)

/-- The log call of an emission is an error exactly when the cause is `OVERFLOW`, and carries the emitted bytes
(spec/42_emission_and_sinks.md R75). Its line is the hex line, with the error text before it for an error alone: that
layout is the spec's own decision, not its source's (spec/92_eei_decisions.md D19), and the model's choice to keep
the text as a parameter (log entry 12). -/
def Obligations.LogErrorOnlyOnOverflow : Prop :=
  ∀ (p : LogParams) (s : State) (e : Emission), s.out = some e →
    ∃ call, s.logCall = some call ∧ (call.isError = true ↔ e.cause = .overflow) ∧ call.bytes = e.frame ∧
      logLine p call =
        if e.cause = .overflow then p.LOG_ERR_TEXT ++ hexline p e.frame else hexline p e.frame

/-- The text of a frame: for each byte two digits of `0123456789ABCDEF`, the high nibble first; one space between two
bytes, none after the last; then the terminator. `N` bytes give `3 * N - 1` characters and the terminator
(spec/42_emission_and_sinks.md R73, R74). The character codes are presumed (log entry 12); that no space follows the
last byte, and the terminator as a parameter, are the spec's decision D18. -/
def Obligations.HexLineText : Prop :=
  (∀ b : Byte, (hex2 b).map (fun v => some v) =
    [("0123456789ABCDEF".toList.map fun ch => BitVec.ofNat 8 ch.toNat)[b.toNat / 16]?,
     ("0123456789ABCDEF".toList.map fun ch => BitVec.ofNat 8 ch.toNat)[b.toNat % 16]?]) ∧
  ∀ (p : LogParams) (f : List Byte),
    hexline p f = List.intercalate [BitVec.ofNat 8 ' '.toNat] (f.map hex2) ++ p.LOG_EOL ∧
    (f ≠ [] → (hexline p f).length = 3 * f.length - 1 + p.LOG_EOL.length)

/-- The hex line of a frame determines the frame: nothing of it is lost (spec/42_emission_and_sinks.md R73). This
is inferred from the rule; it rests on distinct character codes, which are presumed (log entry 12), and on the layout
of the spec's decision D18. -/
def Obligations.HexLineReadsBack : Prop :=
  ∀ (p : LogParams) (f g : List Byte), hexline p f = hexline p g → f = g

/-! ### Priority -/

/-- Priority among the checks of one step: in `Accumulating`, `END` first, `START` second, the overflow guard third, the
default last; in `Idle` the one check `b == START`. The step is the transition that comes first, and reports that
transition's cause and no other (spec/60_exceptions.md R81). -/
def Obligations.PriorityOfChecks : Prop :=
  ∀ (s : State) (b : Byte), s.cfg.Legal → s.Consistent →
    let i : Instr :=
      match s.state with
      | .idle => if b = s.cfg.START then .idleOpen b else .idleDrop b
      | .accumulating =>
        if b = s.cfg.END then .accEnd b
        else if b = s.cfg.START then .accStart b
        else if s.byteCount + 1 = s.cfg.C - 1 then .accOverflow b
        else .accData b
    ∃ t, step (s.present b) = .next t ∧ exec i (s.present b).beginCycle = .next t ∧
      t.out.map (fun e => e.cause) = emissionCause i
end

