-- ==== Sys2Proof/Laws/Decode.lean ====
section
/-! SUPPORT. The fields of the selector word, and the classes of a byte. -/

namespace Sys2Proof

@[simp] theorem selectorByte_selectorOf (st : DecoderState) (b : Byte) :
    selectorByte (selectorOf st b) = b := by
  cases st <;> revert b <;> decide

@[simp] theorem selectorState_selectorOf (st : DecoderState) (b : Byte) :
    selectorState (selectorOf st b) = st := by
  cases st <;> revert b <;> decide

/-- Every selector is the one of its two fields: no bit of it is dropped. -/
theorem selectorOf_fields (sel : Selector) : selectorOf (selectorState sel) (selectorByte sel) = sel := by
  revert sel
  decide

theorem classify_eq_START {c : Config} {b : Byte} : classify c b = .START ↔ b = c.START := by
  unfold classify
  split
  · simp_all
  · split <;> simp_all

theorem classify_eq_END {c : Config} (h : c.START ≠ c.END) {b : Byte} : classify c b = .END ↔ b = c.END := by
  unfold classify
  split
  · simp_all
  · split <;> simp_all

theorem classify_eq_DATA {c : Config} {b : Byte} : classify c b = .DATA ↔ b ≠ c.START ∧ b ≠ c.END := by
  unfold classify
  split
  · simp_all
  · split <;> simp_all

end Sys2Proof
end

