-- ==== Sys2Proof/Laws/State.lean ====
section
/-! SUPPORT. One lemma per field and per update of the state, and for the state after reset, so that no later
proof unfolds a record update. -/

namespace Sys2Proof.Machine

@[simp] theorem State.setState_cfg (s : State) (v : DecoderState) : (s.setState v).cfg = s.cfg := rfl
@[simp] theorem State.setState_state (s : State) (v : DecoderState) : (s.setState v).state = v := rfl
@[simp] theorem State.setState_byteCount (s : State) (v : DecoderState) : (s.setState v).byteCount = s.byteCount := rfl
@[simp] theorem State.setState_buf (s : State) (v : DecoderState) : (s.setState v).buf = s.buf := rfl
@[simp] theorem State.setState_input (s : State) (v : DecoderState) : (s.setState v).input = s.input := rfl
@[simp] theorem State.setState_out (s : State) (v : DecoderState) : (s.setState v).out = s.out := rfl
@[simp] theorem State.setState_tick (s : State) (v : DecoderState) : (s.setState v).tick = s.tick := rfl

@[simp] theorem State.setCount_cfg (s : State) (n : Nat) : (s.setCount n).cfg = s.cfg := rfl
@[simp] theorem State.setCount_state (s : State) (n : Nat) : (s.setCount n).state = s.state := rfl
@[simp] theorem State.setCount_byteCount (s : State) (n : Nat) : (s.setCount n).byteCount = n := rfl
@[simp] theorem State.setCount_buf (s : State) (n : Nat) : (s.setCount n).buf = s.buf := rfl
@[simp] theorem State.setCount_input (s : State) (n : Nat) : (s.setCount n).input = s.input := rfl
@[simp] theorem State.setCount_out (s : State) (n : Nat) : (s.setCount n).out = s.out := rfl
@[simp] theorem State.setCount_tick (s : State) (n : Nat) : (s.setCount n).tick = s.tick := rfl

@[simp] theorem State.setBuf_cfg (s : State) (m : Memory) : (s.setBuf m).cfg = s.cfg := rfl
@[simp] theorem State.setBuf_state (s : State) (m : Memory) : (s.setBuf m).state = s.state := rfl
@[simp] theorem State.setBuf_byteCount (s : State) (m : Memory) : (s.setBuf m).byteCount = s.byteCount := rfl
@[simp] theorem State.setBuf_buf (s : State) (m : Memory) : (s.setBuf m).buf = m := rfl
@[simp] theorem State.setBuf_input (s : State) (m : Memory) : (s.setBuf m).input = s.input := rfl
@[simp] theorem State.setBuf_out (s : State) (m : Memory) : (s.setBuf m).out = s.out := rfl
@[simp] theorem State.setBuf_tick (s : State) (m : Memory) : (s.setBuf m).tick = s.tick := rfl

@[simp] theorem State.setOut_cfg (s : State) (e : Option Emission) : (s.setOut e).cfg = s.cfg := rfl
@[simp] theorem State.setOut_state (s : State) (e : Option Emission) : (s.setOut e).state = s.state := rfl
@[simp] theorem State.setOut_byteCount (s : State) (e : Option Emission) : (s.setOut e).byteCount = s.byteCount := rfl
@[simp] theorem State.setOut_buf (s : State) (e : Option Emission) : (s.setOut e).buf = s.buf := rfl
@[simp] theorem State.setOut_input (s : State) (e : Option Emission) : (s.setOut e).input = s.input := rfl
@[simp] theorem State.setOut_out (s : State) (e : Option Emission) : (s.setOut e).out = e := rfl
@[simp] theorem State.setOut_tick (s : State) (e : Option Emission) : (s.setOut e).tick = s.tick := rfl

@[simp] theorem State.setInput_cfg (s : State) (l : List Pins) : (s.setInput l).cfg = s.cfg := rfl
@[simp] theorem State.setInput_state (s : State) (l : List Pins) : (s.setInput l).state = s.state := rfl
@[simp] theorem State.setInput_byteCount (s : State) (l : List Pins) : (s.setInput l).byteCount = s.byteCount := rfl
@[simp] theorem State.setInput_buf (s : State) (l : List Pins) : (s.setInput l).buf = s.buf := rfl
@[simp] theorem State.setInput_input (s : State) (l : List Pins) : (s.setInput l).input = l := rfl
@[simp] theorem State.setInput_out (s : State) (l : List Pins) : (s.setInput l).out = s.out := rfl
@[simp] theorem State.setInput_tick (s : State) (l : List Pins) : (s.setInput l).tick = s.tick := rfl

@[simp] theorem State.advanceTick_cfg (s : State) : (s.advanceTick).cfg = s.cfg := rfl
@[simp] theorem State.advanceTick_state (s : State) : (s.advanceTick).state = s.state := rfl
@[simp] theorem State.advanceTick_byteCount (s : State) : (s.advanceTick).byteCount = s.byteCount := rfl
@[simp] theorem State.advanceTick_buf (s : State) : (s.advanceTick).buf = s.buf := rfl
@[simp] theorem State.advanceTick_input (s : State) : (s.advanceTick).input = s.input := rfl
@[simp] theorem State.advanceTick_out (s : State) : (s.advanceTick).out = s.out := rfl
@[simp] theorem State.advanceTick_tick (s : State) : (s.advanceTick).tick = s.tick + 1 := rfl

@[simp] theorem State.initial_cfg (c : Config) : (State.initial c).cfg = c := rfl
@[simp] theorem State.initial_state (c : Config) : (State.initial c).state = .idle := rfl
@[simp] theorem State.initial_byteCount (c : Config) : (State.initial c).byteCount = 0 := rfl
@[simp] theorem State.initial_buf (c : Config) : (State.initial c).buf = [] := rfl
@[simp] theorem State.initial_input (c : Config) : (State.initial c).input = [] := rfl
@[simp] theorem State.initial_out (c : Config) : (State.initial c).out = none := rfl
@[simp] theorem State.initial_tick (c : Config) : (State.initial c).tick = 0 := rfl

@[simp] theorem closeFrame_cfg (s : State) : (closeFrame s).cfg = s.cfg := rfl
@[simp] theorem closeFrame_state (s : State) : (closeFrame s).state = .idle := rfl
@[simp] theorem closeFrame_byteCount (s : State) : (closeFrame s).byteCount = 0 := rfl
@[simp] theorem closeFrame_buf (s : State) : (closeFrame s).buf = s.buf := rfl
@[simp] theorem closeFrame_input (s : State) : (closeFrame s).input = s.input := rfl
@[simp] theorem closeFrame_out (s : State) : (closeFrame s).out = s.out := rfl
@[simp] theorem closeFrame_tick (s : State) : (closeFrame s).tick = s.tick := rfl

@[simp] theorem resetCycle_cfg (s : State) : (resetCycle s).cfg = s.cfg := rfl
@[simp] theorem resetCycle_state (s : State) : (resetCycle s).state = .idle := rfl
@[simp] theorem resetCycle_byteCount (s : State) : (resetCycle s).byteCount = 0 := rfl
@[simp] theorem resetCycle_buf (s : State) : (resetCycle s).buf = s.buf := rfl
@[simp] theorem resetCycle_input (s : State) : (resetCycle s).input = s.input := rfl
@[simp] theorem resetCycle_out (s : State) : (resetCycle s).out = none := rfl
@[simp] theorem resetCycle_tick (s : State) : (resetCycle s).tick = s.tick := rfl

@[simp] theorem holdCycle_cfg (s : State) : (holdCycle s).cfg = s.cfg := rfl
@[simp] theorem holdCycle_state (s : State) : (holdCycle s).state = s.state := rfl
@[simp] theorem holdCycle_byteCount (s : State) : (holdCycle s).byteCount = s.byteCount := rfl
@[simp] theorem holdCycle_buf (s : State) : (holdCycle s).buf = s.buf := rfl
@[simp] theorem holdCycle_input (s : State) : (holdCycle s).input = s.input := rfl
@[simp] theorem holdCycle_out (s : State) : (holdCycle s).out = none := rfl
@[simp] theorem holdCycle_tick (s : State) : (holdCycle s).tick = s.tick := rfl

@[simp] theorem State.beginCycle_cfg (s : State) : s.beginCycle.cfg = s.cfg := rfl
@[simp] theorem State.beginCycle_state (s : State) : s.beginCycle.state = s.state := rfl
@[simp] theorem State.beginCycle_byteCount (s : State) : s.beginCycle.byteCount = s.byteCount := rfl
@[simp] theorem State.beginCycle_buf (s : State) : s.beginCycle.buf = s.buf := rfl
@[simp] theorem State.beginCycle_input (s : State) : s.beginCycle.input = s.input.tail := rfl
@[simp] theorem State.beginCycle_out (s : State) : s.beginCycle.out = s.out := rfl
@[simp] theorem State.beginCycle_tick (s : State) : s.beginCycle.tick = s.tick + 1 := rfl

end Sys2Proof.Machine
end

