-- ==== Sys2Proof/Laws/Memory.lean ====
section
/-! SUPPORT. The laws of the frame buffer: read after write, the canonical form, the cells a read gives. -/

namespace Sys2Proof.Machine

@[simp] theorem Memory.read?_nil (i : Nat) : Memory.read? [] i = none := rfl

/-- A read after a write gives the byte written at its index and what was there elsewhere. -/
@[simp] theorem Memory.read?_write (m : Memory) (i j : Nat) (v : Byte) :
    (m.write i v).read? j = if j = i then some v else m.read? j := by
  induction m with
  | nil => simp [Memory.write, Memory.read?]
  | cons cell m ih =>
    obtain ⟨a, w⟩ := cell
    by_cases hlt : i < a
    · simp [Memory.write, Memory.read?, hlt]
    · by_cases heq : i = a
      · subst heq
        by_cases hj : j = i <;> simp [Memory.write, Memory.read?, hj]
      · by_cases hj : j = a
        · subst hj
          simp [Memory.write, Memory.read?, hlt, heq, Ne.symm heq]
        · simp [Memory.write, Memory.read?, hlt, heq, hj, ih]

/-- The entries after a write are the entry written and entries that were there. -/
theorem Memory.mem_write {m : Memory} {i : Nat} {v : Byte} {cell : Host.Cell} (h : cell ∈ m.write i v) :
    cell = (i, v) ∨ cell ∈ m := by
  induction m with
  | nil => simpa [Memory.write] using h
  | cons c m ih =>
    obtain ⟨a, w⟩ := c
    unfold Memory.write at h
    split at h
    · simpa using h
    · split at h
      · rcases List.mem_cons.mp h with h | h
        · exact .inl h
        · exact .inr (List.mem_cons_of_mem _ h)
      · rcases List.mem_cons.mp h with h | h
        · exact .inr (h ▸ List.mem_cons_self)
        · exact (ih h).imp_right (List.mem_cons_of_mem _)

/-- Every write keeps the canonical form. -/
theorem Memory.wf_write {m : Memory} (h : m.wf) (i : Nat) (v : Byte) : (m.write i v).wf := by
  induction m with
  | nil => simp [Memory.wf, Memory.write]
  | cons c m ih =>
    obtain ⟨a, w⟩ := c
    obtain ⟨hhead, htail⟩ := List.pairwise_cons.mp h
    unfold Memory.write
    split
    · rename_i hlt
      refine List.pairwise_cons.mpr ⟨fun x hx => ?_, h⟩
      rcases List.mem_cons.mp hx with rfl | hx
      · exact hlt
      · exact hlt.trans (hhead x hx)
    · split
      · rename_i heq
        subst heq
        exact List.pairwise_cons.mpr ⟨hhead, htail⟩
      · rename_i hlt hne
        refine List.pairwise_cons.mpr ⟨fun x hx => ?_, ih htail⟩
        rcases Memory.mem_write hx with rfl | hx
        · exact lt_of_le_of_ne (Nat.le_of_not_lt hlt) (Ne.symm hne)
        · exact hhead x hx

/-- The memory right after reset is in the canonical form. -/
theorem State.initial_buf_wf (c : Config) : (State.initial c).buf.wf := List.Pairwise.nil

/-- In a memory in canonical form, what is listed is what is read: equal reads mean equal memories. -/
theorem Memory.read?_eq_none_of_lt {m : Memory} {i : Nat} (h : ∀ cell ∈ m, i < cell.1) : m.read? i = none := by
  induction m with
  | nil => rfl
  | cons c m ih =>
    obtain ⟨a, w⟩ := c
    have hlt : i < a := h (a, w) List.mem_cons_self
    simp [Memory.read?, Nat.ne_of_lt hlt, ih fun cell hc => h cell (List.mem_cons_of_mem _ hc)]

/-- Equal memories are equal data: two memories in canonical form that read alike are one list. -/
theorem Memory.ext_of_wf {m m' : Memory} (h : m.wf) (h' : m'.wf) (heq : ∀ i, m.read? i = m'.read? i) :
    m = m' := by
  induction m generalizing m' with
  | nil =>
    cases m' with
    | nil => rfl
    | cons c m' => simpa [Memory.read?] using heq c.1
  | cons c m ih =>
    obtain ⟨a, w⟩ := c
    cases m' with
    | nil => simpa [Memory.read?] using heq a
    | cons c' m' =>
      obtain ⟨a', w'⟩ := c'
      obtain ⟨hm, hmt⟩ := List.pairwise_cons.mp h
      obtain ⟨hm', hmt'⟩ := List.pairwise_cons.mp h'
      have hab : a = a' := by
        rcases Nat.lt_trichotomy a a' with hlt | rfl | hlt
        · have h1 := heq a
          simp [Memory.read?, Nat.ne_of_lt hlt,
            Memory.read?_eq_none_of_lt fun cell hc => hlt.trans (hm' cell hc)] at h1
        · rfl
        · have h1 := heq a'
          simp [Memory.read?, Nat.ne_of_lt hlt,
            Memory.read?_eq_none_of_lt fun cell hc => hlt.trans (hm cell hc)] at h1
      subst hab
      have hw : w = w' := by simpa [Memory.read?] using heq a
      subst hw
      refine congrArg _ (ih hmt hmt' fun i => ?_)
      by_cases hi : i = a
      · subst hi
        rw [Memory.read?_eq_none_of_lt hm, Memory.read?_eq_none_of_lt hm']
      · simpa [Memory.read?, hi] using heq i

/-! ### Cells of a state -/

/-- Only the buffer decides what a cell holds. -/
theorem State.readCell_congr {s t : State} (h : t.buf = s.buf) (i : Nat) : t.readCell i = s.readCell i := by
  simp [State.readCell, h]

@[simp] theorem State.readCell_setState (s : State) (v : DecoderState) (i : Nat) :
    (s.setState v).readCell i = s.readCell i := rfl
@[simp] theorem State.readCell_setCount (s : State) (n i : Nat) : (s.setCount n).readCell i = s.readCell i := rfl
@[simp] theorem State.readCell_setOut (s : State) (e : Option Emission) (i : Nat) :
    (s.setOut e).readCell i = s.readCell i := rfl
@[simp] theorem State.readCell_setInput (s : State) (l : List Pins) (i : Nat) :
    (s.setInput l).readCell i = s.readCell i := rfl
@[simp] theorem State.readCell_beginCycle (s : State) (i : Nat) : s.beginCycle.readCell i = s.readCell i := rfl
@[simp] theorem readCell_closeFrame (s : State) (i : Nat) : (closeFrame s).readCell i = s.readCell i := rfl
@[simp] theorem readCell_resetCycle (s : State) (i : Nat) : (resetCycle s).readCell i = s.readCell i := rfl
@[simp] theorem readCell_holdCycle (s : State) (i : Nat) : (holdCycle s).readCell i = s.readCell i := rfl

/-- A cell after a write to cell `i`. -/
@[simp] theorem State.readCell_setBuf_write (s : State) (i j : Nat) (v : Byte) :
    (s.setBuf (s.buf.write i v)).readCell j = if j = i then v else s.readCell j := by
  by_cases h : j = i <;> simp [State.readCell, h]

@[simp] theorem State.readCells_length (s : State) (i n : Nat) : (s.readCells i n).length = n := by
  simp [State.readCells]

/-- Byte `k` of a read is cell `i + k`: lowest index first (spec/20_memory.md R34, R31). -/
theorem State.readCells_getElem? (s : State) (i n k : Nat) :
    (s.readCells i n)[k]? = if k < n then some (s.readCell (i + k)) else none := by
  by_cases h : k < n <;> simp [State.readCells, h]

/-- A read of one cell more ends with that cell. -/
theorem State.readCells_succ (s : State) (i n : Nat) :
    s.readCells i (n + 1) = s.readCells i n ++ [s.readCell (i + n)] := by
  simp [State.readCells, List.range_succ]

/-- Two states whose cells agree below `n` give the same read. -/
theorem State.readCells_congr {s t : State} {n : Nat} (h : ∀ i, i < n → t.readCell i = s.readCell i) :
    t.readCells 0 n = s.readCells 0 n := by
  refine List.map_congr_left fun k hk => ?_
  simpa using h k (List.mem_range.mp hk)

end Sys2Proof.Machine
end

