-- ==== Sys2Proof/Laws/Ops.lean ====
section
/-! SUPPORT. For each shared operation, once, everything it can do when it answers a next state. -/

namespace Sys2Proof.Machine

@[simp] theorem Result.andThen_next (s : State) (f : State → Result) :
    Result.andThen (.next s) f = f s := rfl
@[simp] theorem Result.andThen_fault (e : Fault) (f : State → Result) :
    Result.andThen (.fault e) f = .fault e := rfl
@[simp] theorem Result.andThen_refused (e : Refusal) (f : State → Result) :
    Result.andThen (.refused e) f = .refused e := rfl

/-- Two operations in a row give a next state through a state between them. -/
theorem Result.andThen_eq_next {r : Result} {f : State → Result} {t : State} :
    r.andThen f = .next t ↔ ∃ u, r = .next u ∧ f u = .next t := by
  cases r <;> simp [Result.andThen]

/-- A write inside the buffer. -/
theorem writeCell_of_lt {i : Nat} {s : State} (v : Byte) (h : i < s.cfg.C) :
    writeCell i v s = .next (s.setBuf (s.buf.write i v)) := by
  simp [writeCell, h]

/-- A write that answers a next state was inside the buffer. -/
theorem writeCell_eq_next {i : Nat} {v : Byte} {s t : State} :
    writeCell i v s = .next t ↔ i < s.cfg.C ∧ t = s.setBuf (s.buf.write i v) := by
  by_cases h : i < s.cfg.C <;> simp [writeCell, h, eq_comm]

/-- An append writes cell `byteCount` and counts it (spec/41_accumulating_transitions.md R57). -/
theorem append_eq_next {b : Byte} {s t : State} :
    append b s = .next t ↔
      s.byteCount < s.cfg.C ∧ t = (s.setBuf (s.buf.write s.byteCount b)).setCount (s.byteCount + 1) := by
  by_cases h : s.byteCount < s.cfg.C <;> simp [append, writeCell, h, eq_comm]

/-- An emission presents the snapshot and changes nothing else (spec/42_emission_and_sinks.md R63). -/
theorem emit_eq_next {cause : Cause} {n : Nat} {s t : State} :
    emit cause n s = .next t ↔ n ≤ s.cfg.C ∧ t = s.setOut (some ⟨cause, s.readCells 0 n⟩) := by
  by_cases h : n ≤ s.cfg.C <;> simp [emit, h, eq_comm]

/-- Opening a frame writes cell 0, the count and the state. -/
theorem openFrame_eq_next {b : Byte} {s t : State} :
    openFrame b s = .next t ↔
      0 < s.cfg.C ∧ t = ((s.setBuf (s.buf.write 0 b)).setCount 1).setState .accumulating := by
  by_cases h : 0 < s.cfg.C <;> simp [openFrame, writeCell, h, State.setBuf, State.setCount, State.setState, eq_comm]

/-- The store before the flush of `ACC_START` leaves cell `byteCount` as it was or stores the byte there, and
changes no other cell (spec/41_accumulating_transitions.md R59 (e)). -/
theorem storeBeforeFlush_eq_next {b : Byte} {s t : State} :
    storeBeforeFlush b s = .next t ↔
      s.byteCount < s.cfg.C ∧ ∃ v, (v = b ∨ v = s.readCell s.byteCount) ∧
        v = (bif Config.accStartStores s.tick then b else s.readCell s.byteCount) ∧
        t = s.setBuf (s.buf.write s.byteCount v) := by
  unfold storeBeforeFlush
  rw [writeCell_eq_next]
  cases Config.accStartStores s.tick <;> simp

/-- A transition that answers a next state was asked for where the spec gives it a meaning. -/
theorem takeTransition_eq_next {i : Instr} {f : State → Result} {s t : State} :
    takeTransition i f s = .next t ↔
      s.cfg.Legal ∧ s.Consistent ∧ s.applies i = true ∧ f (s.setOut none) = .next t := by
  unfold takeTransition
  by_cases h1 : s.cfg.Legal
  · rw [if_neg (not_not.mpr h1)]
    by_cases h2 : s.Consistent
    · rw [if_neg (not_not.mpr h2)]
      by_cases h3 : s.applies i = true
      · rw [if_pos h3]
        exact ⟨fun h => ⟨h1, h2, h3, h⟩, fun h => h.2.2.2⟩
      · rw [if_neg h3]
        exact ⟨nofun, fun h => absurd h.2.2.1 h3⟩
    · rw [if_pos h2]
      exact ⟨nofun, fun h => absurd h.2.1 h2⟩
  · rw [if_pos h1]
    exact ⟨nofun, fun h => absurd h.1 h1⟩

/-- A transition asked for where the spec gives it a meaning runs its assignments. -/
theorem takeTransition_of_applies {i : Instr} {f : State → Result} {s : State} (h1 : s.cfg.Legal)
    (h2 : s.Consistent) (h3 : s.applies i = true) : takeTransition i f s = f (s.setOut none) := by
  unfold takeTransition
  rw [if_neg (not_not.mpr h1), if_neg (not_not.mpr h2), if_pos h3]

end Sys2Proof.Machine
end

