-- ==== Sys2Proof/Laws/PerInstr.lean ====
section
/-! SUPPORT. One statement per instruction as syntax: the two fields of its selector word. -/

namespace Sys2Proof.Laws.SelectorFields

/-- The selector of an instruction holds the state of its row at bit 8 and its operand at bits 7 to 0
(spec/30_encoding.md R46). -/
def Statement (i : Instr) : Prop :=
  selectorState (encode i) = i.fromState ∧ selectorByte (encode i) = i.byte

theorem idleDrop (b : Byte) : Statement (.idleDrop b) := by simp [Statement, encode]
theorem idleOpen (b : Byte) : Statement (.idleOpen b) := by simp [Statement, encode]
theorem accEnd (b : Byte) : Statement (.accEnd b) := by simp [Statement, encode]
theorem accStart (b : Byte) : Statement (.accStart b) := by simp [Statement, encode]
theorem accData (b : Byte) : Statement (.accData b) := by simp [Statement, encode]
theorem accOverflow (b : Byte) : Statement (.accOverflow b) := by simp [Statement, encode]

end Sys2Proof.Laws.SelectorFields
end

