-- ==== Sys2Proof/Tests/Slice0.lean ====
section
/-! SUPPORT. Tests on fixed values, each with its source in spec/, and for every obligation with hypotheses a
state and operands that meet them. -/

namespace Sys2Proof.Tests
open Sys2Proof Sys2Proof.Machine

/-! ### Helpers -/

/-- `p` holds of the next state, where there is one. -/
def nextHas (r : Host.Outcome State Fault Refusal) (p : State → Bool) : Bool :=
  match r with
  | .next t => p t
  | .fault _ => false
  | .refused _ => false

/-- The reason of a refusal, where there is one. -/
def refusal (r : Host.Outcome State Fault Refusal) : Option Refusal :=
  match r with
  | .next _ => none
  | .fault _ => none
  | .refused e => some e

/-- Capacity 4, reference sentinels (spec/95_test_vectors.md P6). -/
def cfg4 : Config := { Config.reference with C := 4 }

/-- Capacity 3 (P7, V33). -/
def cfg3 : Config := { Config.reference with C := 3 }

/-- An instance in the middle of a frame. -/
def midFrame (c : Config) (m : Memory) : State :=
  { State.initial c with state := .accumulating, byteCount := m.length, buf := m }

/-- `AA` in the buffer. -/
def frame1 (c : Config) : State := midFrame c [(0, 0xAA#8)]

/-- `AA 01` in the buffer. -/
def frame2 (c : Config) : State := midFrame c [(0, 0xAA#8), (1, 0x01#8)]

/-- `AA 01 02` in the buffer, the last step of the source's Scenario 1 to come (S1). -/
def frame3 : State := midFrame Config.reference [(0, 0xAA#8), (1, 0x01#8), (2, 0x02#8)]

/-! ### Well-formedness: an ill-formed term for each check -/

theorem test_idleDrop_of_start_ill_formed : Instr.wellFormed Config.reference (.idleDrop 0xAA#8) = false := by decide
theorem test_idleOpen_of_other_ill_formed : Instr.wellFormed Config.reference (.idleOpen 0xAB#8) = false := by decide
theorem test_accEnd_of_other_ill_formed : Instr.wellFormed Config.reference (.accEnd 0x54#8) = false := by decide
theorem test_accStart_of_end_ill_formed : Instr.wellFormed Config.reference (.accStart 0x55#8) = false := by decide
theorem test_accData_of_start_ill_formed : Instr.wellFormed Config.reference (.accData 0xAA#8) = false := by decide
theorem test_accData_of_end_ill_formed : Instr.wellFormed Config.reference (.accData 0x55#8) = false := by decide
theorem test_accOverflow_of_start_ill_formed : Instr.wellFormed Config.reference (.accOverflow 0xAA#8) = false := by decide
theorem test_accOverflow_of_end_ill_formed : Instr.wellFormed Config.reference (.accOverflow 0x55#8) = false := by decide
/-- V31. -/
theorem test_capacity_two_refused :
    refusal (step (State.initial { Config.reference with C := 2 })) = some .illegalConfig := by decide
/-- V32. -/
theorem test_equal_sentinels_refused :
    refusal (step (State.initial { START := 0x7E#8, END := 0x7E#8, C := 128 })) = some .illegalConfig := by decide
/-- V33. -/
theorem test_capacity_three_accepted : cfg3.Legal := by decide

/-! ### Decoding: the words written out from spec/opcode_table.json -/

theorem test_word_idleDrop : decode Config.reference 0b000010011#9 false = .idleDrop 0x13#8 := by decide
theorem test_word_idleDrop_end : decode Config.reference 0b001010101#9 false = .idleDrop 0x55#8 := by decide
theorem test_word_idleOpen : decode Config.reference 0b010101010#9 false = .idleOpen 0xAA#8 := by decide
theorem test_word_accEnd : decode Config.reference 0b101010101#9 true = .accEnd 0x55#8 := by decide
theorem test_word_accStart : decode Config.reference 0b110101010#9 true = .accStart 0xAA#8 := by decide
theorem test_word_accData : decode Config.reference 0b100101110#9 false = .accData 0x2E#8 := by decide
theorem test_word_accOverflow : decode Config.reference 0b100101110#9 true = .accOverflow 0x2E#8 := by decide
/-- V34: under other sentinels `0xAA` is data. -/
theorem test_word_other_sentinels :
    decode { START := 0x7E#8, END := 0x7F#8, C := 128 } 0b110101010#9 false = .accData 0xAA#8 := by decide
theorem test_bytes_accEnd :
    decodeBytes Config.reference false [0x55#8, 0x01#8] = .ok (.accEnd 0x55#8) := rfl
theorem test_bytes_above_selector_rejected :
    decodeBytes Config.reference false [0x55#8, 0x03#8] = .error .bitsAboveSelector := rfl
theorem test_bytes_wrong_length_rejected :
    decodeBytes Config.reference false [0x55#8] = .error (.wrongLength 1) := rfl

/-! ### One step each, from spec/95_test_vectors.md -/

/-- V2. -/
theorem test_idleDrop_stray_end :
    nextHas (exec (.idleDrop 0x55#8) (State.initial Config.reference)) (fun t =>
      t.state = .idle ∧ t.byteCount = 0 ∧ t.out = none ∧ t.buf = []) = true := by decide
/-- V5: one bit from `START`. -/
theorem test_idleDrop_near_start :
    nextHas (step ((State.initial Config.reference).present 0xAB#8)) (fun t =>
      t.state = .idle ∧ t.byteCount = 0 ∧ t.out = none ∧ t.buf = []) = true := by decide
/-- V4. -/
theorem test_idleOpen_stores_start :
    nextHas (step ((State.initial Config.reference).present 0xAA#8)) (fun t =>
      t.state = .accumulating ∧ t.byteCount = 1 ∧ t.out = none ∧ t.buf = [(0, 0xAA#8)]) = true := by decide
/-- V12: an empty payload. -/
theorem test_accEnd_empty_payload :
    nextHas (step ((frame1 Config.reference).present 0x55#8)) (fun t =>
      t.state = .idle ∧ t.byteCount = 0 ∧ t.out = some ⟨.endSeen, [0xAA#8, 0x55#8]⟩) = true := by decide
/-- P6 step 7: `END` at `byteCount == C - 2` is no overflow. -/
theorem test_accEnd_at_guard :
    nextHas (step ((frame2 cfg4).present 0x55#8)) (fun t =>
      t.state = .idle ∧ t.byteCount = 0 ∧ t.out = some ⟨.endSeen, [0xAA#8, 0x01#8, 0x55#8]⟩) = true := by decide
/-- V9, V27. -/
theorem test_accStart_flushes_previous :
    nextHas (step ((frame2 Config.reference).present 0xAA#8)) (fun t =>
      t.state = .accumulating ∧ t.byteCount = 1 ∧ t.readCell 0 = 0xAA#8 ∧
        t.out = some ⟨.restart, [0xAA#8, 0x01#8]⟩ ∧ t.outCause = 2#2 ∧ t.outLen.toNat = 2) = true := by decide
/-- V10: the shortest emission. -/
theorem test_accStart_after_start :
    nextHas (step ((frame1 Config.reference).present 0xAA#8)) (fun t =>
      t.state = .accumulating ∧ t.byteCount = 1 ∧ t.out = some ⟨.restart, [0xAA#8]⟩) = true := by decide
/-- V17: one bit from `END`. -/
theorem test_accData_near_end :
    nextHas (step (frame3.present 0x54#8)) (fun t =>
      t.state = .accumulating ∧ t.byteCount = 4 ∧ t.out = none ∧ t.readCell 3 = 0x54#8 ∧
        t.readCell 2 = 0x02#8) = true := by decide
/-- V8: zero is an ordinary byte. -/
theorem test_accData_zero :
    nextHas (exec (.accData 0x00#8) (frame1 Config.reference)) (fun t =>
      t.byteCount = 2 ∧ t.out = none ∧ t.buf = [(0, 0xAA#8), (1, 0x00#8)]) = true := by decide
/-- P6 step 3. -/
theorem test_accOverflow_small_capacity :
    nextHas (step ((frame2 cfg4).present 0x02#8)) (fun t =>
      t.state = .idle ∧ t.byteCount = 0 ∧ t.out = some ⟨.overflow, [0xAA#8, 0x01#8, 0x02#8]⟩ ∧
        t.logCall = some ⟨true, [0xAA#8, 0x01#8, 0x02#8]⟩) = true := by decide
/-- P7 step 2: the least capacity. -/
theorem test_accOverflow_least_capacity :
    nextHas (step ((frame1 cfg3).present 0x01#8)) (fun t =>
      t.state = .idle ∧ t.byteCount = 0 ∧ t.out = some ⟨.overflow, [0xAA#8, 0x01#8]⟩) = true := by decide
/-- V29: `rst` wins over a byte, and nothing of the partial frame is emitted. -/
theorem test_reset_wins :
    nextHas (step (frame3.setInput [{ rst := true, inValid := true, inByte := 0x55#8 }])) (fun t =>
      t.state = .idle ∧ t.byteCount = 0 ∧ t.out = none ∧ t.buf = frame3.buf ∧ t.input = []) = true := by decide
/-- R24: a byte in a state that no stream reaches. -/
theorem test_unreachable_refused :
    refusal (step (({ State.reset with byteCount := 5 } : State).present 0x00#8)) = some .unreachableState := by
  decide
/-- A transition asked for outside its row. -/
theorem test_not_selected :
    refusal (exec (.accEnd 0x55#8) State.reset) = some (.notSelected "ACC_END") := by decide
/-- The placed words of the opcode table run as the first instruction after reset. -/
theorem test_placed_words_run :
    nextHas (step (State.reset.withFetchWord 16 0x0AA)) (fun t => t.byteCount = 1) = true ∧
    nextHas (step (State.reset.withFetchWord 16 0x155)) (fun t => t.out = some ⟨.endSeen, [0xAA#8, 0x55#8]⟩) = true ∧
    nextHas (step (State.reset.withFetchWord 16 0x1AA)) (fun t => t.out = some ⟨.restart, [0xAA#8]⟩) = true ∧
    nextHas (step (State.reset.withFetchWord 16 0x100)) (fun t => t.byteCount = 2) = true := by decide

/-! ### The memory's canonical form -/

theorem test_write_keeps_order :
    Memory.write [(0, 0xAA#8), (2, 0x02#8)] 1 0x01#8 = [(0, 0xAA#8), (1, 0x01#8), (2, 0x02#8)] := by decide
theorem test_write_replaces : Memory.write [(0, 0xAA#8), (1, 0x01#8)] 1 0x09#8 = [(0, 0xAA#8), (1, 0x09#8)] := by
  decide

/-! ### The collaborators -/

/-- V19. -/
theorem test_dgram :
    dgram (SinkParams.reference 0#16) [0xAA#8, 0x01#8, 0x02#8, 0x55#8] =
      [0x48#8, 0x56#8, 0x41#8, 0x43#8, 0x5F#8, 0x73#8, 0x68#8, 0x61#8, 0x72#8, 0x6B#8, 0x01#8, 0x00#8, 0x00#8,
        0xAA#8, 0x01#8, 0x02#8, 0x55#8] := by decide
/-- V24. -/
theorem test_hexline :
    hexline LogParams.forTests [0xAA#8, 0x0F#8, 0x55#8] =
      [0x41#8, 0x41#8, 0x20#8, 0x30#8, 0x46#8, 0x20#8, 0x35#8, 0x35#8, 0x0A#8] := by decide

/-! ### Witnesses: states and operands that meet the hypotheses of the obligations -/

theorem witness_DecodeEncode :
    cfg4.Legal ∧ Instr.wellFormed cfg4 (.accOverflow 0x01#8) = true ∧ Instr.admitsGuard true (.accOverflow 0x01#8) = true := by
  decide
/-- Also `EverySelectorSelects`, `DecoderAgreesWithTable`, `DerivedConstants`, `ResetHasInvariant`. -/
theorem witness_legal_configuration : Config.reference.Legal := by decide
theorem witness_StepRunsDecodedTransition :
    (frame3.present 0x55#8).cfg.Legal ∧ (frame3.present 0x55#8).pins.rst = false ∧
      (frame3.present 0x55#8).pins.inValid = true ∧
      decodeBytes (frame3.present 0x55#8).cfg (frame3.present 0x55#8).guard
        [(frame3.present 0x55#8).pins.inByte, (0#7 : BitVec 7) ++ (frame3.present 0x55#8).state.code] =
        .ok (.accEnd 0x55#8) := ⟨by decide, by decide, by decide, rfl⟩
theorem witness_PlacedWordRuns : frame3.cfg.Legal ∧ 4 ≤ frame3.cfg.C := by decide
theorem witness_ResetOutranksByte :
    (frame3.setInput [Pins.ofReset]).cfg.Legal ∧ (frame3.setInput [Pins.ofReset]).pins.rst = true := by decide
theorem witness_CycleWithoutByteHolds :
    frame3.cfg.Legal ∧ frame3.pins.rst = false ∧ frame3.pins.inValid = false := by decide
theorem witness_IllegalConfigurationRefused_capacity :
    (State.initial { Config.reference with C := 2 }).cfg.C < 3 := by decide
theorem witness_IllegalConfigurationRefused_sentinels :
    (State.initial { START := 1#8, END := 1#8, C := 3 }).cfg.START =
      (State.initial { START := 1#8, END := 1#8, C := 3 }).cfg.END := by decide
theorem witness_UnreachableStateRefused :
    (({ State.reset with byteCount := 5 } : State).present 0x00#8).cfg.Legal ∧
      ¬ (({ State.reset with byteCount := 5 } : State).present 0x00#8).Consistent ∧
      (({ State.reset with byteCount := 5 } : State).present 0x00#8).pins.rst = false ∧
      (({ State.reset with byteCount := 5 } : State).present 0x00#8).pins.inValid = true := by decide
/-- Also `IdleIgnoresAllButStart`, with a second byte. -/
theorem witness_IdleDropChangesNothing :
    State.reset.cfg.Legal ∧ State.reset.state = .idle ∧ State.reset.byteCount = 0 ∧
      0x00#8 ≠ State.reset.cfg.START ∧ 0x55#8 ≠ State.reset.cfg.START := by decide
theorem witness_IdleOpenOpensFrame :
    State.reset.cfg.Legal ∧ State.reset.state = .idle ∧ State.reset.byteCount = 0 ∧
      0xAA#8 = State.reset.cfg.START := by decide
/-- At the least count and at the greatest. -/
theorem witness_AccEndEmitsClosedFrame :
    ((frame1 Config.reference).cfg.Legal ∧ (frame1 Config.reference).state = .accumulating ∧
      1 ≤ (frame1 Config.reference).byteCount ∧
      (frame1 Config.reference).byteCount ≤ (frame1 Config.reference).cfg.C - 2 ∧
      0x55#8 = (frame1 Config.reference).cfg.END) ∧
    ((frame2 cfg4).cfg.Legal ∧ (frame2 cfg4).state = .accumulating ∧ 1 ≤ (frame2 cfg4).byteCount ∧
      (frame2 cfg4).byteCount ≤ (frame2 cfg4).cfg.C - 2 ∧ 0x55#8 = (frame2 cfg4).cfg.END) := by decide
theorem witness_AccStartFlushesAndReopens :
    (frame2 cfg4).cfg.Legal ∧ (frame2 cfg4).state = .accumulating ∧ 1 ≤ (frame2 cfg4).byteCount ∧
      (frame2 cfg4).byteCount ≤ (frame2 cfg4).cfg.C - 2 ∧ 0xAA#8 = (frame2 cfg4).cfg.START := by decide
theorem witness_AccDataAppends :
    (frame1 cfg4).cfg.Legal ∧ (frame1 cfg4).state = .accumulating ∧ 1 ≤ (frame1 cfg4).byteCount ∧
      (frame1 cfg4).byteCount ≤ (frame1 cfg4).cfg.C - 3 ∧ 0x01#8 ≠ (frame1 cfg4).cfg.START ∧
      0x01#8 ≠ (frame1 cfg4).cfg.END := by decide
/-- Also `SentinelsOutrankGuard`, whose three clauses are met by the three kinds of byte. -/
theorem witness_AccOverflowFlushesFullBuffer :
    (frame2 cfg4).cfg.Legal ∧ (frame2 cfg4).state = .accumulating ∧
      (frame2 cfg4).byteCount = (frame2 cfg4).cfg.C - 2 ∧ 0x02#8 ≠ (frame2 cfg4).cfg.START ∧
      0x02#8 ≠ (frame2 cfg4).cfg.END := by decide
theorem witness_SentinelsOutrankGuard_end : 0x55#8 = (frame2 cfg4).cfg.END := by decide
theorem witness_SentinelsOutrankGuard_start :
    0xAA#8 ≠ (frame2 cfg4).cfg.END ∧ 0xAA#8 = (frame2 cfg4).cfg.START := by decide
/-- Also `ExactlyOneTransitionRuns`, `RefinesAbstractMachine`, `EveryStreamRuns`. -/
theorem witness_StepFollowsTransitionMap : frame3.cfg.Legal ∧ frame3.Consistent := by decide

/-- In `Idle`, below the guard and at it; the bytes of the four checks are those of the witnesses above. -/
theorem witness_PriorityOfChecks :
    (State.reset.cfg.Legal ∧ State.reset.Consistent) ∧ ((frame1 cfg4).cfg.Legal ∧ (frame1 cfg4).Consistent) ∧
      ((frame2 cfg4).cfg.Legal ∧ (frame2 cfg4).Consistent) := by decide

/-- `AA 01 02` under construction has the invariant. -/
theorem frame3_inv : frame3.Inv where
  legal := by decide
  consistent := by decide
  bufCanonical := by decide
  bufInBounds := by decide
  validCellsWritten := by decide
  startFirst := by decide
  noSentinelAfter := by
    intro i h1 h2
    have h : i = 1 ∨ i = 2 := by change i < 3 at h2; omega
    rcases h with rfl | rfl <;> decide
  outShape := by intro e h; cases h

theorem frame3_present_inv (b : Byte) : (frame3.present b).Inv :=
  ⟨frame3_inv.legal, frame3_inv.consistent, frame3_inv.bufCanonical, frame3_inv.bufInBounds,
    frame3_inv.validCellsWritten, frame3_inv.startFirst, frame3_inv.noSentinelAfter, frame3_inv.outShape⟩

/-- A step that emits, from a state with the invariant. Also `EmissionLengthByCause`, `RestsAfterEmission` (its
second clause), `PortsPresentEmission` (its second clause), `ConfigurationNeverChanges`, `LastCellNeverWritten`,
`DatagramSize`, `LogErrorOnlyOnOverflow`, `CountNeverExceedsCapacity`, `ReachableStatesClosed`. -/
theorem witness_StepKeepsInvariant :
    (frame3.present 0x55#8).Inv ∧ (frame3.present 0x55#8).byteCount ≤ (frame3.present 0x55#8).cfg.C ∧
    ∃ t, step (frame3.present 0x55#8) = .next t ∧
      t.out = some ⟨.endSeen, [0xAA#8, 0x01#8, 0x02#8, 0x55#8]⟩ ∧
      t.sinkCall = some ⟨[0xAA#8, 0x01#8, 0x02#8, 0x55#8], 4⟩ :=
  ⟨frame3_present_inv _, by decide, _, rfl, by decide, by decide⟩
/-- The other clauses: a restart, an overflow, and a step that emits nothing. -/
theorem witness_RestsAfterEmission_restart :
    ∃ t, step ((frame2 cfg4).present 0xAA#8) = .next t ∧ t.out = some ⟨.restart, [0xAA#8, 0x01#8]⟩ :=
  ⟨_, rfl, by decide⟩
theorem witness_LogErrorOnlyOnOverflow_overflow :
    ∃ t, step ((frame2 cfg4).present 0x02#8) = .next t ∧ t.out = some ⟨.overflow, [0xAA#8, 0x01#8, 0x02#8]⟩ :=
  ⟨_, rfl, by decide⟩
theorem witness_PortsPresentEmission_quiet : ∃ t, step frame3 = .next t ∧ t.out = none := ⟨_, rfl, rfl⟩
/-- And for a reset `witness_ResetOutranksByte`, for a stream `witness_ResetContentsUnobservable`. -/
theorem witness_AtMostOneEmissionPerStep : ∃ t, exec (.accEnd 0x55#8) frame3 = .next t := ⟨_, rfl⟩

/-- Two states that differ in a hidden cell, and a step from the first. -/
theorem witness_HiddenCellsUnobservable :
    AgreeOnVisible (frame3.present 0x55#8) ((frame3.setBuf (frame3.buf.write 9 0x77#8)).present 0x55#8) ∧
    (frame3.present 0x55#8).buf ≠ ((frame3.setBuf (frame3.buf.write 9 0x77#8)).present 0x55#8).buf ∧
    ∃ t, step (frame3.present 0x55#8) = .next t :=
  ⟨⟨rfl, rfl, rfl, rfl, by decide⟩, by decide, _, rfl⟩
/-- Also `EmittedBytesAreSubsequence`. -/
theorem witness_ResetContentsUnobservable :
    (State.initial cfg4).state = .idle ∧
    ∃ t, runBytes [0xAA#8, 0x55#8] (State.initial cfg4) = .next (t, [⟨.endSeen, [0xAA#8, 0x55#8]⟩]) :=
  ⟨rfl, _, rfl⟩
theorem witness_AbstractStatesCorrespond :
    frame3.Inv ∧ frame3.cfg = frame3.cfg ∧ frame3.abs = frame3.abs ∧
      (AbsState.accumulating [0xAA#8, 0x01#8]).Reachable cfg4 :=
  ⟨frame3_inv, rfl, rfl, [0x01#8], rfl, by decide, by decide⟩
/-- Also `AbortedFrameFlushed`, with the payload twice. -/
theorem witness_FrameRoundTrip :
    (State.initial cfg4).cfg.Legal ∧ (State.initial cfg4).state = .idle ∧ (State.initial cfg4).byteCount = 0 ∧
      (∀ x ∈ [0x01#8], classify (State.initial cfg4).cfg x = .DATA) ∧
      [0x01#8].length ≤ (State.initial cfg4).cfg.C - 3 := by decide
/-- The shortest payload that does not fit. -/
theorem witness_LongFrameCut :
    (State.initial cfg4).cfg.Legal ∧ (State.initial cfg4).state = .idle ∧ (State.initial cfg4).byteCount = 0 ∧
      (∀ x ∈ [0x01#8, 0x02#8], classify (State.initial cfg4).cfg x = .DATA) ∧
      (State.initial cfg4).cfg.C - 3 < [0x01#8, 0x02#8].length := by decide
/-- P4. -/
theorem witness_NoStartNoEmission :
    State.reset.cfg.Legal ∧ State.reset.state = .idle ∧ State.reset.byteCount = 0 ∧
      State.reset.cfg.START ∉ [0x01#8, 0x02#8, 0x55#8, 0x03#8] := by decide
/-- With a reset among the cycles, and without. -/
theorem witness_PartialFrameWaitsForByte :
    (frame3.setInput [Pins.quiet, Pins.ofReset]).cfg.Legal ∧
      (∀ p ∈ (frame3.setInput [Pins.quiet, Pins.ofReset]).input, p.inValid = false) ∧
      (∀ p ∈ (frame3.setInput [Pins.quiet]).input, p.inValid = false ∧ p.rst = false) := by decide

end Sys2Proof.Tests
end

section
/-! SUPPORT. What a step can do, said once: the transition that a byte selects, the state each transition leaves,
and the three kinds of clock cycle. -/

namespace Sys2Proof

/-! ### The transition a selector selects -/

/-- The six rows of spec/30_encoding.md R47, each under its state, byte class and guard: what decoding can give. -/
theorem decode_cases {c : Config} (h : c.Legal) (sel : Selector) (guard : Bool) :
    (selectorState sel = .idle ∧
      (selectorByte sel ≠ c.START ∧ decode c sel guard = .idleDrop (selectorByte sel) ∨
       selectorByte sel = c.START ∧ decode c sel guard = .idleOpen (selectorByte sel))) ∨
    (selectorState sel = .accumulating ∧
      (selectorByte sel = c.END ∧ decode c sel guard = .accEnd (selectorByte sel) ∨
       selectorByte sel = c.START ∧ decode c sel guard = .accStart (selectorByte sel) ∨
       (selectorByte sel ≠ c.START ∧ selectorByte sel ≠ c.END) ∧
        (guard = false ∧ decode c sel guard = .accData (selectorByte sel) ∨
         guard = true ∧ decode c sel guard = .accOverflow (selectorByte sel)))) := by
  obtain ⟨-, hne⟩ := h
  cases hstate : selectorState sel with
  | idle =>
    refine .inl ⟨rfl, ?_⟩
    cases hclass : classify c (selectorByte sel) with
    | START => exact .inr ⟨classify_eq_START.mp hclass, by simp [decode, hstate, hclass]⟩
    | END => exact .inl ⟨(classify_eq_END hne).mp hclass ▸ hne.symm, by simp [decode, hstate, hclass]⟩
    | DATA => exact .inl ⟨(classify_eq_DATA.mp hclass).1, by simp [decode, hstate, hclass]⟩
  | accumulating =>
    refine .inr ⟨rfl, ?_⟩
    cases hclass : classify c (selectorByte sel) with
    | START => exact .inr (.inl ⟨classify_eq_START.mp hclass, by simp [decode, hstate, hclass]⟩)
    | END => exact .inl ⟨(classify_eq_END hne).mp hclass, by simp [decode, hstate, hclass]⟩
    | DATA =>
      refine .inr (.inr ⟨classify_eq_DATA.mp hclass, ?_⟩)
      cases guard <;> simp [decode, hstate, hclass]

/-- The transition decoded is one whose row has the selector's state, the byte's class and the guard. -/
theorem decode_row {c : Config} (h : c.Legal) (sel : Selector) (guard : Bool) :
    (decode c sel guard).fromState = selectorState sel ∧ (decode c sel guard).wellFormed c = true ∧
      (decode c sel guard).admitsGuard guard = true := by
  obtain ⟨hs, ⟨hb, hi⟩ | ⟨hb, hi⟩⟩ | ⟨hs, ⟨hb, hi⟩ | ⟨hb, hi⟩ | ⟨⟨hb, hb'⟩, ⟨hg, hi⟩ | ⟨hg, hi⟩⟩⟩ :=
    decode_cases h sel guard
  all_goals rw [hi]; simp [Instr.fromState, Instr.wellFormed, Instr.admitsGuard, *]

end Sys2Proof

namespace Sys2Proof.Machine

theorem State.applies_iff {s : State} {i : Instr} :
    s.applies i = true ↔
      s.state = i.fromState ∧ i.wellFormed s.cfg = true ∧ i.admitsGuard s.guard = true := by
  simp [State.applies, and_assoc]

/-- The transition a byte selects is one that applies, so a step never asks for another
(spec/30_encoding.md R48). -/
theorem State.applies_select {s : State} (h : s.cfg.Legal) (b : Byte) : s.applies (s.select b) = true := by
  obtain ⟨hstate, hwf, hguard⟩ := decode_row h (selectorOf s.state b) s.guard
  rw [selectorState_selectorOf] at hstate
  exact State.applies_iff.mpr ⟨hstate.symm, hwf, hguard⟩

/-- In `Accumulating`, `END` selects `ACC_END`, whatever the count (spec/41_accumulating_transitions.md R56). -/
theorem State.select_END {s : State} (h : s.cfg.Legal) (hs : s.state = .accumulating) :
    s.select s.cfg.END = .accEnd s.cfg.END := by
  simp [State.select, decode, hs, (classify_eq_END h.2).mpr rfl]

/-- In every state of spec/10_state.md R21 at least two cells of the buffer lie past the valid ones. -/
theorem State.Consistent.byteCount_add_two_le {s : State} (hc : s.Consistent) (hl : s.cfg.Legal) :
    s.byteCount + 2 ≤ s.cfg.C := by
  obtain ⟨hidle, hacc⟩ := hc
  obtain ⟨hC, -⟩ := hl
  cases hs : s.state with
  | idle => have := hidle.mp hs; omega
  | accumulating => have := hacc hs; omega

/-! ### The state each transition leaves -/

/-- `s` with `b` in cell `byteCount`, counted. -/
def State.appended (s : State) (b : Byte) : State :=
  (s.setBuf (s.buf.write s.byteCount b)).setCount (s.byteCount + 1)

theorem append_of_lt {s : State} (b : Byte) (h : s.byteCount < s.cfg.C) : append b s = .next (s.appended b) :=
  append_eq_next.mpr ⟨h, rfl⟩

@[simp] theorem State.appended_cfg (s : State) (b : Byte) : (s.appended b).cfg = s.cfg := rfl
@[simp] theorem State.appended_state (s : State) (b : Byte) : (s.appended b).state = s.state := rfl
@[simp] theorem State.appended_byteCount (s : State) (b : Byte) : (s.appended b).byteCount = s.byteCount + 1 := rfl
@[simp] theorem State.appended_buf (s : State) (b : Byte) : (s.appended b).buf = s.buf.write s.byteCount b := rfl
@[simp] theorem State.appended_input (s : State) (b : Byte) : (s.appended b).input = s.input := rfl
@[simp] theorem State.appended_out (s : State) (b : Byte) : (s.appended b).out = s.out := rfl
@[simp] theorem State.appended_tick (s : State) (b : Byte) : (s.appended b).tick = s.tick := rfl

/-- The valid cells after an append are those before it and the byte. -/
theorem State.readCells_appended (s : State) (b : Byte) :
    (s.appended b).readCells 0 (s.byteCount + 1) = s.readCells 0 s.byteCount ++ [b] := by
  have hbelow : (s.appended b).readCells 0 s.byteCount = s.readCells 0 s.byteCount :=
    State.readCells_congr fun i hi => by simp [State.appended, Nat.ne_of_lt hi]
  have hlast : (s.appended b).readCell s.byteCount = b := by simp [State.appended]
  simp only [State.readCells_succ, hbelow, Nat.zero_add, hlast]

/-- `s` with a frame opened by `b`. -/
def State.opened (s : State) (b : Byte) : State :=
  ((s.setBuf (s.buf.write 0 b)).setCount 1).setState .accumulating

theorem openFrame_of_pos {s : State} (b : Byte) (h : 0 < s.cfg.C) : openFrame b s = .next (s.opened b) :=
  openFrame_eq_next.mpr ⟨h, rfl⟩

@[simp] theorem State.opened_cfg (s : State) (b : Byte) : (s.opened b).cfg = s.cfg := rfl
@[simp] theorem State.opened_state (s : State) (b : Byte) : (s.opened b).state = .accumulating := rfl
@[simp] theorem State.opened_byteCount (s : State) (b : Byte) : (s.opened b).byteCount = 1 := rfl
@[simp] theorem State.opened_buf (s : State) (b : Byte) : (s.opened b).buf = s.buf.write 0 b := rfl
@[simp] theorem State.opened_input (s : State) (b : Byte) : (s.opened b).input = s.input := rfl
@[simp] theorem State.opened_out (s : State) (b : Byte) : (s.opened b).out = s.out := rfl
@[simp] theorem State.opened_tick (s : State) (b : Byte) : (s.opened b).tick = s.tick := rfl

/-- `s` after the store that is left open of `ACC_START` (spec/41_accumulating_transitions.md R59 (e)). -/
def State.storedBeforeFlush (s : State) (b : Byte) : State :=
  s.setBuf (s.buf.write s.byteCount (bif Config.accStartStores s.tick then b else s.readCell s.byteCount))

theorem storeBeforeFlush_of_lt {s : State} (b : Byte) (h : s.byteCount < s.cfg.C) :
    storeBeforeFlush b s = .next (s.storedBeforeFlush b) :=
  writeCell_of_lt _ h

@[simp] theorem State.storedBeforeFlush_cfg (s : State) (b : Byte) : (s.storedBeforeFlush b).cfg = s.cfg := rfl
@[simp] theorem State.storedBeforeFlush_byteCount (s : State) (b : Byte) :
    (s.storedBeforeFlush b).byteCount = s.byteCount := rfl
@[simp] theorem State.storedBeforeFlush_input (s : State) (b : Byte) : (s.storedBeforeFlush b).input = s.input := rfl
@[simp] theorem State.storedBeforeFlush_tick (s : State) (b : Byte) : (s.storedBeforeFlush b).tick = s.tick := rfl

/-- The store before the flush writes past the valid cells, so the flushed frame is as it stood. -/
theorem State.readCells_storedBeforeFlush (s : State) (b : Byte) :
    (s.storedBeforeFlush b).readCells 0 s.byteCount = s.readCells 0 s.byteCount :=
  State.readCells_congr fun i hi => by simp [State.storedBeforeFlush, Nat.ne_of_lt hi]

/-- `s` after transition `i`, where `i` applies; tied to `exec` by `exec_eq_next`. -/
def State.after (s : State) : Instr → State
  | .idleDrop _ => s.setOut none
  | .idleOpen b => (s.setOut none).opened b
  | .accEnd b => closeFrame ((s.appended b).setOut (some ⟨.endSeen, s.readCells 0 s.byteCount ++ [b]⟩))
  | .accStart b => ((s.storedBeforeFlush b).setOut (some ⟨.restart, s.readCells 0 s.byteCount⟩)).opened b
  | .accData b => (s.setOut none).appended b
  | .accOverflow b => closeFrame ((s.appended b).setOut (some ⟨.overflow, s.readCells 0 s.byteCount ++ [b]⟩))

theorem emit_of_le {s : State} (cause : Cause) {n : Nat} (h : n ≤ s.cfg.C) :
    emit cause n s = .next (s.setOut (some ⟨cause, s.readCells 0 n⟩)) :=
  emit_eq_next.mpr ⟨h, rfl⟩

/-- The assignments that `ACC_END` and `ACC_OVERFLOW` share but for the cause. -/
theorem append_emit_close (cause : Cause) (b : Byte) {s : State} (h : s.byteCount + 1 ≤ s.cfg.C) :
    ((append b s).andThen fun s₁ => (emit cause s₁.byteCount s₁).andThen fun s₂ => .next (closeFrame s₂)) =
      .next (closeFrame ((s.appended b).setOut (some ⟨cause, s.readCells 0 s.byteCount ++ [b]⟩))) := by
  have hemit := emit_of_le (s := s.appended b) cause h
  rw [State.readCells_appended] at hemit
  simp [append_of_lt b (Nat.lt_of_succ_le h), hemit]

/-- The assignments of `ACC_START`. -/
theorem storeBeforeFlush_emit_open (b : Byte) {s : State} (h : s.byteCount < s.cfg.C) :
    ((storeBeforeFlush b s).andThen fun s₁ => (emit .restart s₁.byteCount s₁).andThen (openFrame b)) =
      .next (((s.storedBeforeFlush b).setOut (some ⟨.restart, s.readCells 0 s.byteCount⟩)).opened b) := by
  have hemit := emit_of_le (s := s.storedBeforeFlush b) .restart (Nat.le_of_lt h)
  rw [State.readCells_storedBeforeFlush] at hemit
  have hopen := openFrame_of_pos (s := (s.storedBeforeFlush b).setOut (some ⟨.restart, s.readCells 0 s.byteCount⟩)) b
    (Nat.zero_lt_of_lt h)
  simp [storeBeforeFlush_of_lt b h, hemit, hopen]

/-- The assignments of each transition, apart from the test that it applies. -/
def assignments : Instr → State → Result
  | .idleDrop _ => .next
  | .idleOpen b => openFrame b
  | .accEnd b => fun s => (append b s).andThen fun s₁ =>
      (emit .endSeen s₁.byteCount s₁).andThen fun s₂ => .next (closeFrame s₂)
  | .accStart b => fun s => (storeBeforeFlush b s).andThen fun s₁ =>
      (emit .restart s₁.byteCount s₁).andThen (openFrame b)
  | .accData b => append b
  | .accOverflow b => fun s => (append b s).andThen fun s₁ =>
      (emit .overflow s₁.byteCount s₁).andThen fun s₂ => .next (closeFrame s₂)

theorem exec_eq_takeTransition (i : Instr) (s : State) :
    exec i s = takeTransition i (assignments i) s := by
  cases i <;> rfl

/-- With two cells left no assignment faults, and they lead to `State.after`. -/
theorem assignments_eq_next_after (i : Instr) {s : State} (h : s.byteCount + 2 ≤ s.cfg.C) :
    assignments i (s.setOut none) = .next (s.after i) := by
  cases i with
  | idleDrop b => rfl
  | idleOpen b => exact openFrame_of_pos b (Nat.lt_of_lt_of_le (Nat.succ_pos _) h)
  | accEnd b => exact append_emit_close .endSeen b (s := s.setOut none) (Nat.le_of_succ_le h)
  | accStart b => exact storeBeforeFlush_emit_open b (s := s.setOut none) (Nat.lt_of_succ_lt h)
  | accData b => exact append_of_lt b (Nat.lt_of_succ_lt h)
  | accOverflow b => exact append_emit_close .overflow b (s := s.setOut none) (Nat.le_of_succ_le h)

/-- A transition runs exactly where its row applies, in a legal configuration and a state of
spec/10_state.md R21, and `State.after` is where it leads. -/
theorem exec_eq_next {i : Instr} {s t : State} :
    exec i s = .next t ↔ s.cfg.Legal ∧ s.Consistent ∧ s.applies i = true ∧ t = s.after i := by
  rw [exec_eq_takeTransition, takeTransition_eq_next]
  refine and_congr_right fun hl => and_congr_right fun hc => and_congr_right fun _ => ?_
  rw [assignments_eq_next_after i (hc.byteCount_add_two_le hl), Host.Outcome.next.injEq, eq_comm]

/-! ### The three kinds of clock cycle -/

theorem step_of_illegal {s : State} (h : ¬ s.cfg.Legal) : step s = .refused .illegalConfig := by
  simp only [step, clockCycle, if_pos h]

theorem step_of_rst {s : State} (h : s.cfg.Legal) (hrst : s.pins.rst = true) :
    step s = .next (resetCycle s.beginCycle) := by
  simp only [step, clockCycle, if_neg (not_not.mpr h), if_pos hrst]

theorem step_of_byte {s : State} (h : s.cfg.Legal) (hrst : s.pins.rst = false) (hvalid : s.pins.inValid = true) :
    step s = exec (s.beginCycle.select s.pins.inByte) s.beginCycle := by
  rw [step, clockCycle, if_neg (not_not.mpr h)]
  simp [hrst, hvalid]

theorem step_of_no_byte {s : State} (h : s.cfg.Legal) (hrst : s.pins.rst = false)
    (hvalid : s.pins.inValid = false) : step s = .next (holdCycle s.beginCycle) := by
  rw [step, clockCycle, if_neg (not_not.mpr h)]
  simp [hrst, hvalid]

/-- Every way a step can answer a next state: a reset, a cycle without a byte, or the transition that the byte
selects, in a state of spec/10_state.md R21. -/
theorem step_cases {s t : State} (h : step s = .next t) :
    s.cfg.Legal ∧
      (s.pins.rst = true ∧ t = resetCycle s.beginCycle ∨
       s.pins.rst = false ∧ s.pins.inValid = false ∧ t = holdCycle s.beginCycle ∨
       s.pins.rst = false ∧ s.pins.inValid = true ∧ s.Consistent ∧
        t = s.beginCycle.after (s.beginCycle.select s.pins.inByte)) := by
  by_cases hl : s.cfg.Legal
  case neg => rw [step_of_illegal hl] at h; cases h
  refine ⟨hl, ?_⟩
  cases hrst : s.pins.rst with
  | true => rw [step_of_rst hl hrst] at h; cases h; exact .inl ⟨rfl, rfl⟩
  | false =>
    cases hvalid : s.pins.inValid with
    | false => rw [step_of_no_byte hl hrst hvalid] at h; cases h; exact .inr (.inl ⟨rfl, rfl, rfl⟩)
    | true =>
      rw [step_of_byte hl hrst hvalid] at h
      obtain ⟨-, hc, -, ht⟩ := exec_eq_next.mp h
      exact .inr (.inr ⟨rfl, rfl, hc, ht⟩)

/-- A presented byte takes the transition it selects. -/
theorem step_present {s : State} (hl : s.cfg.Legal) (hc : s.Consistent) (b : Byte) :
    step (s.present b) = .next (s.advanceTick.after (s.select b)) := by
  rw [step_of_byte (s := s.present b) hl rfl rfl]
  exact exec_eq_next.mpr ⟨hl, hc, State.applies_select (s := s) hl b, rfl⟩

/-! ### Emissions -/

/-- The frame a transition emits has a length of its cause's range (spec/10_state.md R22). -/
theorem State.after_emission_lengthInRange {s : State} {i : Instr} {e : Emission} (hc : s.Consistent)
    (happ : s.applies i = true) (he : (s.after i).out = some e) : e.LengthInRange s.cfg := by
  obtain ⟨hstate, -, hguard⟩ := State.applies_iff.mp happ
  obtain ⟨-, hacc⟩ := hc
  cases i with
  | idleDrop b => cases he
  | idleOpen b => cases he
  | accData b => cases he
  | accEnd b =>
    cases he
    have := hacc hstate
    simp only [Emission.LengthInRange, List.length_append, State.readCells_length, List.length_singleton]
    omega
  | accStart b =>
    cases he
    simpa [Emission.LengthInRange] using hacc hstate
  | accOverflow b =>
    cases he
    simpa [Emission.LengthInRange, Instr.admitsGuard, State.guard] using hguard

theorem step_emission_lengthInRange {s t : State} {e : Emission} (h : step s = .next t) (he : t.out = some e) :
    e.LengthInRange s.cfg := by
  obtain ⟨hl, ⟨-, rfl⟩ | ⟨-, -, rfl⟩ | ⟨-, -, hc, rfl⟩⟩ := step_cases h
  · cases he
  · cases he
  · exact State.after_emission_lengthInRange (s := s.beginCycle) hc (State.applies_select hl _) he

theorem Emission.LengthInRange.length_le_LMAX {c : Config} {e : Emission} (h : e.LengthInRange c) :
    e.frame.length ≤ c.LMAX := by
  unfold Emission.LengthInRange at h
  unfold Config.LMAX
  split at h <;> omega

end Sys2Proof.Machine
end

section
/-! Settles the statements of spec/00_scope.md: the parameters and the constants derived from them. -/

namespace Sys2Proof

/-- `W` bits suffice exactly for the values up to `C` (spec/00_scope.md R8). -/
theorem Config.W_le_iff {c : Config} (h : c.C ≠ 0) (k : Nat) : c.W ≤ k ↔ c.C < 2 ^ k :=
  Nat.log2_lt h

theorem Config.W_eq_clog {c : Config} (h : c.C ≠ 0) : c.W = Nat.clog 2 (c.C + 1) :=
  eq_of_forall_ge_iff fun k => by
    rw [Config.W_le_iff h, Nat.clog_le_iff_le_pow Nat.one_lt_two, Nat.succ_le_iff]

end Sys2Proof

namespace Sys2Proof.Machine

/-- `Accumulating` with the greatest count that spec/10_state.md R21 allows, `C - 2`. -/
def State.lastByteDue (c : Config) : State := ((State.initial c).setState .accumulating).setCount (c.C - 2)

theorem State.lastByteDue_consistent {c : Config} (h : c.Legal) : (State.lastByteDue c).Consistent := by
  obtain ⟨hC, -⟩ := h
  have hcount : (State.lastByteDue c).byteCount = c.C - 2 := rfl
  refine ⟨⟨nofun, fun h0 => ?_⟩, fun _ => ⟨?_, le_rfl⟩⟩ <;> omega

/-- `END` at the greatest count closes a frame of `LMAX` bytes. -/
theorem exists_step_emits_LMAX {c : Config} (h : c.Legal) :
    ∃ (s t : State) (e : Emission), s.cfg = c ∧ step s = .next t ∧ t.out = some e ∧ e.frame.length = c.LMAX := by
  have hstep := step_present (s := State.lastByteDue c) h (State.lastByteDue_consistent h) c.END
  rw [show (State.lastByteDue c).select c.END = .accEnd c.END from State.select_END h rfl] at hstep
  refine ⟨_, _, _, rfl, hstep, rfl, ?_⟩
  obtain ⟨hC, -⟩ := h
  calc ((State.lastByteDue c).readCells 0 (c.C - 2) ++ [c.END]).length
      = c.C - 2 + 1 := by simp
    _ = c.LMAX := by unfold Config.LMAX; omega

/-- Settles O9: the first test of every step is that the configuration is legal. -/
theorem illegalConfigurationRefused : Obligations.IllegalConfigurationRefused := by
  rintro s (hC | heq)
  · exact step_of_illegal fun ⟨hC', _⟩ => absurd hC (Nat.not_lt.mpr hC')
  · exact step_of_illegal fun ⟨_, hne⟩ => hne heq

/-- Settles O32: the bound on lengths is the range of each cause, and `END` at the count `C - 2` attains it. -/
theorem derivedConstants : Obligations.DerivedConstants := by
  refine ⟨fun c hl => ?_, by decide, rfl⟩
  have hC : c.C ≠ 0 := Nat.ne_of_gt (Nat.lt_of_lt_of_le (by decide) hl.1)
  refine ⟨⟨(Config.W_le_iff hC _).mp le_rfl, fun k => (Config.W_le_iff hC k).mpr, Config.W_eq_clog hC⟩, rfl, ?_,
    exists_step_emits_LMAX hl⟩
  rintro s t e rfl hstep he
  exact (step_emission_lengthInRange hstep he).length_le_LMAX

end Sys2Proof.Machine
end

section
/-! SUPPORT. What every transition keeps: the environment's fields, the reachable states, the form of the buffer;
and that it reads no cell that spec/10_state.md R16 hides. -/

namespace Sys2Proof.Machine

/-! ### The environment's fields -/

theorem State.after_environmentKept (s : State) (i : Instr) : EnvironmentKept s (s.after i) := by
  cases i <;> exact ⟨rfl, rfl, rfl⟩

@[simp] theorem State.after_cfg (s : State) (i : Instr) : (s.after i).cfg = s.cfg :=
  (s.after_environmentKept i).cfg

/-- Every step takes the pins of one cycle, counts it, and keeps the constants. -/
theorem step_environmentKept {s t : State} (h : step s = .next t) : EnvironmentKept s.beginCycle t := by
  obtain ⟨-, ⟨-, rfl⟩ | ⟨-, -, rfl⟩ | ⟨-, -, -, rfl⟩⟩ := step_cases h
  · exact ⟨rfl, rfl, rfl⟩
  · exact ⟨rfl, rfl, rfl⟩
  · exact s.beginCycle.after_environmentKept _

/-! ### The reachable states of spec/10_state.md R21 -/

theorem State.consistent_of_rest {s : State} (hs : s.state = .idle) (hn : s.byteCount = 0) : s.Consistent :=
  ⟨iff_of_true hs hn, fun h => nomatch hs.symm.trans h⟩

theorem State.Consistent.byteCount_of_idle {s : State} (hc : s.Consistent) (hs : s.state = .idle) :
    s.byteCount = 0 :=
  hc.1.mp hs

theorem State.consistent_of_accumulating {s : State} (hs : s.state = .accumulating) (hpos : 1 ≤ s.byteCount)
    (hle : s.byteCount ≤ s.cfg.C - 2) : s.Consistent :=
  ⟨iff_of_false (fun h => nomatch hs.symm.trans h) (Nat.ne_of_gt hpos), fun _ => ⟨hpos, hle⟩⟩

/-- Below the guard an append leaves room for one byte more; every other transition opens or closes a frame or
changes nothing. -/
theorem State.Consistent.after {s : State} (hc : s.Consistent) (hl : s.cfg.Legal) {i : Instr}
    (happ : s.applies i = true) : (s.after i).Consistent := by
  obtain ⟨hstate, -, hguard⟩ := State.applies_iff.mp happ
  have hopen : 1 ≤ s.cfg.C - 2 := by have := hl.1; omega
  cases i with
  | idleDrop b => exact hc
  | idleOpen b => exact State.consistent_of_accumulating rfl le_rfl hopen
  | accEnd b => exact State.consistent_of_rest rfl rfl
  | accStart b => exact State.consistent_of_accumulating rfl le_rfl hopen
  | accData b =>
    have hbelow : s.byteCount + 1 ≠ s.cfg.C - 1 := by simpa [Instr.admitsGuard, State.guard] using hguard
    have hroom := hc.byteCount_add_two_le hl
    exact State.consistent_of_accumulating hstate (Nat.succ_pos _)
      (show s.byteCount + 1 ≤ s.cfg.C - 2 by omega)
  | accOverflow b => exact State.consistent_of_rest rfl rfl

theorem step_keeps_consistent {s t : State} (hc : s.Consistent) (h : step s = .next t) : t.Consistent := by
  obtain ⟨hl, ⟨-, rfl⟩ | ⟨-, -, rfl⟩ | ⟨-, -, -, rfl⟩⟩ := step_cases h
  · exact State.consistent_of_rest rfl rfl
  · exact hc
  · exact State.Consistent.after (s := s.beginCycle) hc hl (State.applies_select hl _)

/-! ### The buffer -/

/-- What holds of the buffer and is kept by every write at or below `byteCount` holds of it after a transition:
no transition writes any other cell (spec/10_state.md R15). -/
theorem State.after_buf_induction {P : Memory → Prop} (s : State) (i : Instr) (hbuf : P s.buf)
    (hwrite : ∀ (m : Memory) (j : Nat) (v : Byte), j ≤ s.byteCount → P m → P (m.write j v)) :
    P (s.after i).buf := by
  cases i with
  | idleDrop b => exact hbuf
  | idleOpen b => exact hwrite _ _ _ (Nat.zero_le _) hbuf
  | accEnd b => exact hwrite _ _ _ le_rfl hbuf
  | accStart b => exact hwrite _ _ _ (Nat.zero_le _) (hwrite _ _ _ le_rfl hbuf)
  | accData b => exact hwrite _ _ _ le_rfl hbuf
  | accOverflow b => exact hwrite _ _ _ le_rfl hbuf

theorem State.after_buf_wf {s : State} (h : s.buf.wf) (i : Instr) : (s.after i).buf.wf :=
  s.after_buf_induction i h fun _ j v _ hm => Memory.wf_write hm j v

theorem State.after_buf_le {s : State} {k : Nat} (h : ∀ cell ∈ s.buf, cell.1 ≤ k) (hk : s.byteCount ≤ k)
    (i : Instr) : ∀ cell ∈ (s.after i).buf, cell.1 ≤ k := by
  refine s.after_buf_induction (P := fun m => ∀ cell ∈ m, cell.1 ≤ k) i h fun m j v hj hm cell hcell => ?_
  obtain rfl | hmem := Memory.mem_write hcell
  · exact hj.trans hk
  · exact hm cell hmem

theorem State.after_buf_read?_of_gt {s : State} {k : Nat} (hk : s.byteCount < k) (i : Instr) :
    (s.after i).buf.read? k = s.buf.read? k := by
  refine s.after_buf_induction (P := fun m => m.read? k = s.buf.read? k) i rfl fun m j v hj hm => ?_
  rw [Memory.read?_write, if_neg (Nat.ne_of_gt (hj.trans_lt hk)), hm]

/-- A written cell stays written. -/
theorem State.after_buf_isSome {s : State} {k : Nat} (hk : (s.buf.read? k).isSome = true) (i : Instr) :
    ((s.after i).buf.read? k).isSome = true := by
  refine s.after_buf_induction (P := fun m => (m.read? k).isSome = true) i hk fun m j v _ hm => ?_
  rw [Memory.read?_write]
  split
  · rfl
  · exact hm

/-- A transition that moves the count past a cell has written it (spec/10_state.md R16). -/
theorem State.after_validCellsWritten {s : State}
    (h : ∀ k, k < s.byteCount → (s.buf.read? k).isSome = true) (i : Instr) :
    ∀ k, k < (s.after i).byteCount → ((s.after i).buf.read? k).isSome = true := by
  intro k hk
  cases i with
  | idleDrop b => exact h k hk
  | idleOpen b =>
    obtain rfl : k = 0 := Nat.lt_one_iff.mp hk
    simp [State.after]
  | accEnd b => exact absurd hk (Nat.not_lt_zero k)
  | accStart b =>
    obtain rfl : k = 0 := Nat.lt_one_iff.mp hk
    simp [State.after]
  | accData b =>
    obtain hlt | rfl := Nat.lt_succ_iff_lt_or_eq.mp hk
    · exact State.after_buf_isSome (h k hlt) (.accData b)
    · simp [State.after]
  | accOverflow b => exact absurd hk (Nat.not_lt_zero k)

/-- No step writes cell `C - 1` or one above it (spec/20_memory.md R36). -/
theorem step_keeps_read?_of_le {s t : State} (h : step s = .next t) {k : Nat} (hk : s.cfg.C - 1 ≤ k) :
    t.buf.read? k = s.buf.read? k := by
  obtain ⟨hl, ⟨-, rfl⟩ | ⟨-, -, rfl⟩ | ⟨-, -, hc, rfl⟩⟩ := step_cases h
  · rfl
  · rfl
  · have hroom := hc.byteCount_add_two_le hl
    exact State.after_buf_read?_of_gt (s := s.beginCycle)
      (show s.byteCount < k by omega) _

/-! ### Hidden cells -/

theorem AgreeOnVisible.readCells {s t : State} (h : AgreeOnVisible s t) :
    t.readCells 0 t.byteCount = s.readCells 0 s.byteCount := by
  rw [h.byteCount]
  exact State.readCells_congr h.cells

theorem AgreeOnVisible.consistent {s t : State} (h : AgreeOnVisible s t) (hc : s.Consistent) : t.Consistent := by
  simpa only [State.Consistent, h.cfg, h.state, h.byteCount] using hc

theorem AgreeOnVisible.pins {s t : State} (h : AgreeOnVisible s t) : t.pins = s.pins :=
  congrArg (List.headD · Pins.quiet) h.input

theorem AgreeOnVisible.select {s t : State} (h : AgreeOnVisible s t) (b : Byte) : t.select b = s.select b := by
  simp only [State.select, State.guard, h.cfg, h.state, h.byteCount]

theorem AgreeOnVisible.beginCycle {s t : State} (h : AgreeOnVisible s t) :
    AgreeOnVisible s.beginCycle t.beginCycle :=
  ⟨h.cfg, h.state, h.byteCount, congrArg List.tail h.input, h.cells⟩

theorem AgreeOnVisible.present {s t : State} (h : AgreeOnVisible s t) (b : Byte) :
    AgreeOnVisible (s.present b) (t.present b) :=
  ⟨h.cfg, h.state, h.byteCount, congrArg (Pins.ofByte b :: ·) h.input, h.cells⟩

theorem AgreeOnVisible.opened {s t : State} (hcfg : t.cfg = s.cfg) (hinput : t.input = s.input) (b : Byte) :
    AgreeOnVisible (s.opened b) (t.opened b) := by
  refine ⟨hcfg, rfl, rfl, hinput, fun k hk => ?_⟩
  obtain rfl : k = 0 := Nat.lt_one_iff.mp hk
  simp [State.opened]

theorem AgreeOnVisible.appended {s t : State} (h : AgreeOnVisible s t) (b : Byte) :
    AgreeOnVisible (s.appended b) (t.appended b) := by
  refine ⟨h.cfg, h.state, congrArg (· + 1) h.byteCount, h.input, fun k hk => ?_⟩
  obtain hlt | rfl := Nat.lt_succ_iff_lt_or_eq.mp hk
  · simp [State.appended, h.byteCount, Nat.ne_of_lt hlt, h.cells k hlt]
  · simp [State.appended, h.byteCount]

/-- With no valid cell there is no cell to tell two states apart by. -/
theorem AgreeOnVisible.of_closed {s t : State} (hcfg : t.cfg = s.cfg) (hinput : t.input = s.input)
    (hstate : t.state = s.state) (hs : s.byteCount = 0) (ht : t.byteCount = 0) : AgreeOnVisible s t :=
  ⟨hcfg, hstate, ht.trans hs.symm, hinput, fun k hk => absurd (hs ▸ hk) (Nat.not_lt_zero k)⟩

/-- A transition carries the visible part to the visible part; a hidden cell that `ACC_START` may store in stays
hidden. -/
theorem AgreeOnVisible.after {s t : State} (h : AgreeOnVisible s t) (i : Instr) :
    AgreeOnVisible (s.after i) (t.after i) ∧ (t.after i).out = (s.after i).out := by
  cases i with
  | idleDrop b => exact ⟨⟨h.cfg, h.state, h.byteCount, h.input, h.cells⟩, rfl⟩
  | idleOpen b => exact ⟨.opened (s := s.setOut none) (t := t.setOut none) h.cfg h.input b, rfl⟩
  | accEnd b =>
    exact ⟨.of_closed h.cfg h.input rfl rfl rfl,
      congrArg (fun f => some (Emission.mk .endSeen (f ++ [b]))) h.readCells⟩
  | accStart b =>
    exact ⟨.opened (s := (s.storedBeforeFlush b).setOut _) (t := (t.storedBeforeFlush b).setOut _) h.cfg h.input b,
      congrArg (fun f => some (Emission.mk .restart f)) h.readCells⟩
  | accData b =>
    exact ⟨.appended (s := s.setOut none) (t := t.setOut none)
      ⟨h.cfg, h.state, h.byteCount, h.input, h.cells⟩ b, rfl⟩
  | accOverflow b =>
    exact ⟨.of_closed h.cfg h.input rfl rfl rfl,
      congrArg (fun f => some (Emission.mk .overflow (f ++ [b]))) h.readCells⟩

theorem AgreeOnVisible.step {s t s' : State} (h : AgreeOnVisible s t) (hstep : step s = .next s') :
    ∃ t', Machine.step t = .next t' ∧ AgreeOnVisible s' t' ∧ t'.out = s'.out := by
  have hb := h.beginCycle
  obtain ⟨hl, ⟨hrst, rfl⟩ | ⟨hrst, hvalid, rfl⟩ | ⟨hrst, hvalid, hc, rfl⟩⟩ := step_cases hstep
  all_goals rw [← h.cfg] at hl; rw [← h.pins] at hrst
  · exact ⟨_, step_of_rst hl hrst, .of_closed hb.cfg hb.input rfl rfl rfl, rfl⟩
  · rw [← h.pins] at hvalid
    exact ⟨_, step_of_no_byte hl hrst hvalid, ⟨hb.cfg, hb.state, hb.byteCount, hb.input, hb.cells⟩, rfl⟩
  · rw [← h.pins] at hvalid
    have hexec : Machine.step t = .next (t.beginCycle.after (t.beginCycle.select t.pins.inByte)) := by
      rw [step_of_byte hl hrst hvalid]
      exact exec_eq_next.mpr ⟨hl, h.consistent hc, State.applies_select (s := t.beginCycle) hl _, rfl⟩
    rw [hb.select, h.pins] at hexec
    exact ⟨_, hexec, hb.after _⟩

/-! ### Runs over a byte stream -/

/-- A run answers exactly where its first step and the run over the rest do. -/
theorem runBytes_cons_eq_next {b : Byte} {bs : List Byte} {s u : State} {es : List Emission} :
    runBytes (b :: bs) s = .next (u, es) ↔
      ∃ t es', step (s.present b) = .next t ∧ runBytes bs t = .next (u, es') ∧ es = t.out.toList ++ es' := by
  rw [runBytes]
  cases step (s.present b) with
  | fault e => simp
  | refused e => simp
  | next t =>
    rcases hrest : runBytes bs t with ⟨v, es'⟩ | e | e <;> simp [hrest, eq_comm]

theorem AgreeOnVisible.runBytes {bs : List Byte} {s t s' : State} {es : List Emission} (h : AgreeOnVisible s t)
    (hrun : runBytes bs s = .next (s', es)) :
    ∃ t', Machine.runBytes bs t = .next (t', es) ∧ AgreeOnVisible s' t' := by
  induction bs generalizing s t es with
  | nil => cases hrun; exact ⟨t, rfl, h⟩
  | cons b bs ih =>
    obtain ⟨s₁, es', hstep, hrest, rfl⟩ := runBytes_cons_eq_next.mp hrun
    obtain ⟨t₁, hstep', h₁, hout⟩ := (h.present b).step hstep
    obtain ⟨t', hrest', h'⟩ := ih h₁ hrest
    exact ⟨t', runBytes_cons_eq_next.mpr ⟨t₁, es', hstep', hrest', by rw [hout]⟩, h'⟩

end Sys2Proof.Machine
end

section
/-! SUPPORT. The abstract machine of spec/10_state.md R27: its step under each check, what its reachable states emit,
its run over a byte stream, and that the machine on registers simulates it. -/

namespace Sys2Proof

theorem decode_byte {c : Config} (h : c.Legal) (sel : Selector) (guard : Bool) :
    (decode c sel guard).byte = selectorByte sel := by
  obtain ⟨-, ⟨-, hi⟩ | ⟨-, hi⟩⟩ | ⟨-, ⟨-, hi⟩ | ⟨-, hi⟩ | ⟨-, ⟨-, hi⟩ | ⟨-, hi⟩⟩⟩ := decode_cases h sel guard
  all_goals rw [hi]; rfl

end Sys2Proof

namespace Sys2Proof.Machine

theorem State.select_byte {s : State} (h : s.cfg.Legal) (b : Byte) : (s.select b).byte = b :=
  (decode_byte h _ _).trans (selectorByte_selectorOf _ _)

/-! ### The abstract step, check by check -/

@[simp] theorem absStep_idle_START (c : Config) : absStep c .idle c.START = (.accumulating [c.START], none) := by
  simp [absStep]

theorem absStep_idle_of_ne {c : Config} {b : Byte} (h : b ≠ c.START) : absStep c .idle b = (.idle, none) := by
  simp [absStep, h]

@[simp] theorem absStep_END (c : Config) (f : List Byte) :
    absStep c (.accumulating f) c.END = (.idle, some ⟨.endSeen, f ++ [c.END]⟩) := by
  simp [absStep]

theorem absStep_START {c : Config} (h : c.Legal) (f : List Byte) :
    absStep c (.accumulating f) c.START = (.accumulating [c.START], some ⟨.restart, f⟩) := by
  simp [absStep, h.2]

theorem absStep_overflow {c : Config} {b : Byte} (hb : classify c b = .DATA) {f : List Byte}
    (hf : f.length + 1 = c.C - 1) :
    absStep c (.accumulating f) b = (.idle, some ⟨.overflow, f ++ [b]⟩) := by
  obtain ⟨hS, hE⟩ := classify_eq_DATA.mp hb
  simp [absStep, hS, hE, hf]

theorem absStep_data {c : Config} {b : Byte} (hb : classify c b = .DATA) {f : List Byte}
    (hf : f.length + 1 ≠ c.C - 1) :
    absStep c (.accumulating f) b = (.accumulating (f ++ [b]), none) := by
  obtain ⟨hS, hE⟩ := classify_eq_DATA.mp hb
  simp [absStep, hS, hE, hf]

/-! ### Frames of the abstract machine -/

theorem forall_mem_concat_data {c : Config} {d : List Byte} {b : Byte} (hd : ∀ x ∈ d, classify c x = .DATA)
    (hb : classify c b = .DATA) : ∀ x ∈ d ++ [b], classify c x = .DATA :=
  List.forall_mem_append.mpr ⟨hd, List.forall_mem_singleton.mpr hb⟩

theorem AbsState.reachable_START {c : Config} (h : c.Legal) : (AbsState.accumulating [c.START]).Reachable c :=
  ⟨[], rfl, Nat.le_sub_of_add_le h.1, nofun⟩

/-- From a reachable abstract state a step comes to a reachable one, and what it emits has the shape of its cause
(spec/10_state.md R22, R23). -/
theorem AbsState.Reachable.step {c : Config} (hl : c.Legal) {a : AbsState} (ha : a.Reachable c) (b : Byte) :
    (absStep c a b).1.Reachable c ∧ ∀ e, (absStep c a b).2 = some e → e.Shape c := by
  cases a with
  | idle =>
    by_cases hb : b = c.START
    · subst hb
      rw [absStep_idle_START]
      exact ⟨AbsState.reachable_START hl, nofun⟩
    · rw [absStep_idle_of_ne hb]
      exact ⟨trivial, nofun⟩
  | accumulating f =>
    obtain ⟨d, rfl, hlen, hd⟩ := ha
    have hlen' : d.length + 1 ≤ c.C - 2 := hlen
    cases hclass : classify c b with
    | END =>
      obtain rfl := (classify_eq_END hl.2).mp hclass
      rw [absStep_END]
      refine ⟨trivial, ?_⟩
      rintro e ⟨⟩
      exact ⟨d, hd, rfl, by omega⟩
    | START =>
      obtain rfl := classify_eq_START.mp hclass
      rw [absStep_START hl]
      refine ⟨AbsState.reachable_START hl, ?_⟩
      rintro e ⟨⟩
      exact ⟨d, hd, rfl, by omega⟩
    | DATA =>
      have hd' := forall_mem_concat_data hd hclass
      have hlast : (d ++ [b]).length = d.length + 1 := List.length_append
      by_cases hfull : (c.START :: d).length + 1 = c.C - 1
      · rw [absStep_overflow hclass hfull]
        rw [List.length_cons] at hfull
        refine ⟨trivial, ?_⟩
        rintro e ⟨⟩
        exact ⟨d ++ [b], hd', rfl, by omega⟩
      · rw [absStep_data hclass hfull]
        rw [List.length_cons] at hfull
        exact ⟨⟨d ++ [b], rfl, show (d ++ [b]).length + 1 ≤ c.C - 2 by omega, hd'⟩, nofun⟩

/-! ### What the registers stand for -/

theorem State.abs_of_idle {s : State} (h : s.state = .idle) : s.abs = .idle := by simp [State.abs, h]

theorem State.abs_of_accumulating {s : State} (h : s.state = .accumulating) :
    s.abs = .accumulating (s.readCells 0 s.byteCount) := by simp [State.abs, h]

theorem State.state_of_abs_idle {s : State} (h : s.abs = .idle) : s.state = .idle := by
  cases hs : s.state with
  | idle => rfl
  | accumulating => cases (State.abs_of_accumulating hs).symm.trans h

theorem State.abs_appended {s : State} (h : s.state = .accumulating) (b : Byte) :
    (s.appended b).abs = .accumulating (s.readCells 0 s.byteCount ++ [b]) :=
  (State.abs_of_accumulating (s := s.appended b) h).trans (congrArg _ (s.readCells_appended b))

theorem State.abs_opened (s : State) (b : Byte) : (s.opened b).abs = .accumulating [b] := by
  rw [State.abs_of_accumulating (s.opened_state b)]
  simp [State.readCells, State.opened]

/-- The transition that applies has the abstract effect that the rules restate (spec/10_state.md R27). -/
theorem State.abs_after {s : State} (hl : s.cfg.Legal) {i : Instr} (happ : s.applies i = true) :
    ((s.after i).abs, (s.after i).out) = absStep s.cfg s.abs i.byte := by
  obtain ⟨hstate, hwf, hguard⟩ := State.applies_iff.mp happ
  cases i with
  | idleDrop b =>
    have hb : b ≠ s.cfg.START := by simpa [Instr.wellFormed] using hwf
    rw [State.abs_of_idle hstate, Instr.byte, absStep_idle_of_ne hb]
    exact congrArg (·, none) (State.abs_of_idle (s := s.setOut none) hstate)
  | idleOpen b =>
    obtain rfl : b = s.cfg.START := by simpa [Instr.wellFormed] using hwf
    rw [State.abs_of_idle hstate, Instr.byte, absStep_idle_START]
    exact congrArg (·, none) ((s.setOut none).abs_opened _)
  | accEnd b =>
    obtain rfl : b = s.cfg.END := by simpa [Instr.wellFormed] using hwf
    rw [State.abs_of_accumulating hstate, Instr.byte, absStep_END]
    rfl
  | accStart b =>
    obtain rfl : b = s.cfg.START := by simpa [Instr.wellFormed] using hwf
    rw [State.abs_of_accumulating hstate, Instr.byte, absStep_START hl]
    exact congrArg (·, _) (State.abs_opened _ _)
  | accData b =>
    have hb : classify s.cfg b = .DATA := classify_eq_DATA.mpr (by simpa [Instr.wellFormed] using hwf)
    have hroom : (s.readCells 0 s.byteCount).length + 1 ≠ s.cfg.C - 1 := by
      simpa [Instr.admitsGuard, State.guard] using hguard
    rw [State.abs_of_accumulating hstate, Instr.byte, absStep_data hb hroom]
    exact congrArg (·, none) (State.abs_appended (s := s.setOut none) hstate b)
  | accOverflow b =>
    have hb : classify s.cfg b = .DATA := classify_eq_DATA.mpr (by simpa [Instr.wellFormed] using hwf)
    have hfull : (s.readCells 0 s.byteCount).length + 1 = s.cfg.C - 1 := by
      simpa [Instr.admitsGuard, State.guard] using hguard
    rw [State.abs_of_accumulating hstate, Instr.byte, absStep_overflow hb hfull]
    rfl

/-- One byte on registers is one step of the abstract machine. -/
theorem step_present_simulates {s : State} (hl : s.cfg.Legal) (hc : s.Consistent) (b : Byte) :
    ∃ t, step (s.present b) = .next t ∧ t.cfg = s.cfg ∧ t.Consistent ∧ (t.abs, t.out) = absStep s.cfg s.abs b := by
  have happ := State.applies_select hl b
  refine ⟨_, step_present hl hc b, State.after_cfg _ _,
    State.Consistent.after (s := s.advanceTick) hc hl happ, ?_⟩
  have habs := State.abs_after (s := s.advanceTick) hl happ
  rw [State.select_byte hl] at habs
  exact habs

/-! ### The abstract run -/

/-- The abstract state after a byte stream, and the emissions in step order; tied to `runBytes` by
`runBytes_simulates`. -/
def absRun (c : Config) : List Byte → AbsState → AbsState × List Emission
  | [], a => (a, [])
  | b :: bs, a =>
    ((absRun c bs (absStep c a b).1).1, (absStep c a b).2.toList ++ (absRun c bs (absStep c a b).1).2)

@[simp] theorem absRun_nil (c : Config) (a : AbsState) : absRun c [] a = (a, []) := rfl

/-- A byte stream on registers is a run of the abstract machine: to the same abstract state, with the same
emissions. -/
theorem runBytes_simulates (bs : List Byte) {s : State} (hl : s.cfg.Legal) (hc : s.Consistent) :
    ∃ t, runBytes bs s = .next (t, (absRun s.cfg bs s.abs).2) ∧ t.abs = (absRun s.cfg bs s.abs).1 ∧
      t.cfg = s.cfg ∧ t.Consistent := by
  induction bs generalizing s with
  | nil => exact ⟨s, rfl, rfl, rfl, hc⟩
  | cons b bs ih =>
    obtain ⟨t, hstep, hcfg, htc, habs⟩ := step_present_simulates hl hc b
    obtain ⟨u, hrun, huabs, hucfg, huc⟩ := ih (hcfg ▸ hl) htc
    have hstate : t.abs = (absStep s.cfg s.abs b).1 := congrArg Prod.fst habs
    have hout : t.out = (absStep s.cfg s.abs b).2 := congrArg Prod.snd habs
    rw [hcfg, hstate] at hrun huabs
    exact ⟨u, runBytes_cons_eq_next.mpr ⟨t, _, hstep, hrun, by rw [hout]; rfl⟩, huabs, hucfg.trans hcfg, huc⟩

@[simp] theorem absRun_START (c : Config) (bs : List Byte) :
    absRun c (c.START :: bs) .idle = absRun c bs (.accumulating [c.START]) := by
  simp [absRun]

/-- Bytes that are no sentinels are collected, as long as the frame stays below the guard. -/
theorem absRun_data {c : Config} {d f : List Byte} (hd : ∀ x ∈ d, classify c x = .DATA)
    (hlen : f.length + d.length ≤ c.C - 2) (bs : List Byte) :
    absRun c (d ++ bs) (.accumulating f) = absRun c bs (.accumulating (f ++ d)) := by
  induction d generalizing f with
  | nil => simp
  | cons b d ih =>
    obtain ⟨hb, hd⟩ := List.forall_mem_cons.mp hd
    rw [List.length_cons] at hlen
    have hroom : f.length + 1 ≠ c.C - 1 := by omega
    have hlen' : (f ++ [b]).length + d.length ≤ c.C - 2 := by
      rw [List.length_append, List.length_singleton]; omega
    simp [absRun, absStep_data hb hroom, ih hd hlen']

/-- `START` and bytes that are no sentinels, from rest, leave a frame of exactly those bytes
(spec/10_state.md R27). -/
theorem absRun_START_data {c : Config} (hl : c.Legal) {d : List Byte} (hd : ∀ x ∈ d, classify c x = .DATA)
    (hlen : d.length ≤ c.C - 3) (bs : List Byte) :
    absRun c (c.START :: d ++ bs) .idle = absRun c bs (.accumulating (c.START :: d)) := by
  have hC := hl.1
  rw [List.cons_append, absRun_START, absRun_data hd (by rw [List.length_singleton]; omega)]
  rfl

/-- Every reachable abstract state is the end of an abstract run from rest that emits nothing: the run over the frame
itself. -/
theorem AbsState.Reachable.exists_absRun {c : Config} (hl : c.Legal) {a : AbsState} (ha : a.Reachable c) :
    ∃ bs, absRun c bs .idle = (a, []) := by
  cases a with
  | idle => exact ⟨[], rfl⟩
  | accumulating f =>
    obtain ⟨d, rfl, hlen, hd⟩ := ha
    have hlen' : d.length + 1 ≤ c.C - 2 := hlen
    exact ⟨c.START :: d, by simpa using absRun_START_data hl hd (by omega) []⟩

/-! ### The invariant through what the registers stand for -/

/-- In `Accumulating` the valid cells are the first cell and those after it. -/
theorem State.readCells_eq_cons {s : State} (h : 1 ≤ s.byteCount) :
    s.readCells 0 s.byteCount = s.readCell 0 :: s.readCells 1 (s.byteCount - 1) := by
  obtain ⟨n, hn⟩ := Nat.exists_eq_add_of_le' h
  simp [State.readCells, hn, List.range_succ_eq_map, Function.comp_def, Nat.add_comm]

theorem State.forall_mem_readCells {s : State} {i n : Nat} {p : Byte → Prop} :
    (∀ x ∈ s.readCells i n, p x) ↔ ∀ k, k < n → p (s.readCell (i + k)) := by
  simp [State.readCells]

/-- In a state of spec/10_state.md R21, to stand for a reachable abstract state says of the cells what R23 says. -/
theorem State.abs_reachable_iff {s : State} (hc : s.Consistent) :
    s.abs.Reachable s.cfg ↔
      (s.state = .accumulating → s.readCell 0 = s.cfg.START) ∧
        ∀ i, 1 ≤ i → i < s.byteCount → classify s.cfg (s.readCell i) = .DATA := by
  cases hs : s.state with
  | idle =>
    have hn := hc.byteCount_of_idle hs
    rw [State.abs_of_idle hs]
    exact iff_of_true trivial ⟨nofun, fun i _ hi => absurd (hn ▸ hi) (Nat.not_lt_zero i)⟩
  | accumulating =>
    obtain ⟨hpos, hle⟩ := hc.2 hs
    rw [State.abs_of_accumulating hs]
    constructor
    · rintro ⟨d, hframe, -, hd⟩
      rw [State.readCells_eq_cons hpos] at hframe
      obtain ⟨hfirst, rfl⟩ := List.cons.inj hframe
      rw [State.forall_mem_readCells] at hd
      refine ⟨fun _ => hfirst, fun i h1 hi => ?_⟩
      simpa [Nat.add_sub_cancel' h1] using hd (i - 1) (by omega)
    · rintro ⟨hfirst, hrest⟩
      refine ⟨s.readCells 1 (s.byteCount - 1), ?_, by rwa [State.readCells_length], ?_⟩
      · rw [State.readCells_eq_cons hpos, hfirst rfl]
      · exact State.forall_mem_readCells.mpr fun k hk => hrest (1 + k) (by omega) (by omega)

theorem State.Inv.abs_reachable {s : State} (h : s.Inv) : s.abs.Reachable s.cfg :=
  (State.abs_reachable_iff h.consistent).mpr ⟨h.startFirst, h.noSentinelAfter⟩

theorem State.Inv.beginCycle {s : State} (h : s.Inv) : s.beginCycle.Inv :=
  ⟨h.legal, h.consistent, h.bufCanonical, h.bufInBounds, h.validCellsWritten, h.startFirst, h.noSentinelAfter,
    h.outShape⟩

theorem State.Inv.holdCycle {s : State} (h : s.Inv) : (holdCycle s).Inv :=
  ⟨h.legal, h.consistent, h.bufCanonical, h.bufInBounds, h.validCellsWritten, h.startFirst, h.noSentinelAfter,
    nofun⟩

theorem State.Inv.resetCycle {s : State} (h : s.Inv) : (resetCycle s).Inv :=
  ⟨h.legal, State.consistent_of_rest rfl rfl, h.bufCanonical, h.bufInBounds, nofun, nofun, nofun, nofun⟩

/-- What the cells hold and what is emitted follow from the abstract step; the form of the buffer does not, and is
kept by every write. -/
theorem State.Inv.after {s : State} (h : s.Inv) {i : Instr} (happ : s.applies i = true) : (s.after i).Inv := by
  have hconsistent := h.consistent.after h.legal happ
  have hroom : s.byteCount ≤ s.cfg.C - 2 := Nat.le_sub_of_add_le (h.consistent.byteCount_add_two_le h.legal)
  have hstep := State.abs_after h.legal happ
  have habs : (s.after i).abs = (absStep s.cfg s.abs i.byte).1 := congrArg Prod.fst hstep
  have hout : (s.after i).out = (absStep s.cfg s.abs i.byte).2 := congrArg Prod.snd hstep
  obtain ⟨hreach, hshape⟩ := h.abs_reachable.step h.legal i.byte
  rw [← habs, ← s.after_cfg i, State.abs_reachable_iff hconsistent] at hreach
  obtain ⟨hfirst, hrest⟩ := hreach
  exact {
    legal := by rw [State.after_cfg]; exact h.legal
    consistent := hconsistent
    bufCanonical := State.after_buf_wf h.bufCanonical i
    bufInBounds := by rw [State.after_cfg]; exact State.after_buf_le h.bufInBounds hroom i
    validCellsWritten := State.after_validCellsWritten h.validCellsWritten i
    startFirst := hfirst
    noSentinelAfter := hrest
    outShape := fun e he => by rw [State.after_cfg]; exact hshape e (hout.symm.trans he) }

/-- Two states of spec/10_state.md R21 that stand for the same abstract state differ in nothing visible. -/
theorem State.Consistent.visible_of_abs_eq {s t : State} (hs : s.Consistent) (ht : t.Consistent)
    (habs : s.abs = t.abs) :
    t.state = s.state ∧ t.byteCount = s.byteCount ∧ ∀ i, i < s.byteCount → t.readCell i = s.readCell i := by
  cases hstate : s.state with
  | idle =>
    have htstate := State.state_of_abs_idle (habs.symm.trans (State.abs_of_idle hstate))
    have hn := hs.byteCount_of_idle hstate
    exact ⟨htstate, (ht.byteCount_of_idle htstate).trans hn.symm, fun i hi => absurd (hn ▸ hi) (Nat.not_lt_zero i)⟩
  | accumulating =>
    rw [State.abs_of_accumulating hstate] at habs
    cases htstate : t.state with
    | idle => rw [State.abs_of_idle htstate] at habs; cases habs
    | accumulating =>
      rw [State.abs_of_accumulating htstate] at habs
      have hframe := AbsState.accumulating.inj habs
      have hn : t.byteCount = s.byteCount := by simpa using (congrArg List.length hframe).symm
      refine ⟨rfl, hn, fun i hi => ?_⟩
      have hcell := congrArg (·[i]?) hframe
      simp only [State.readCells_getElem?, hn, if_pos hi, Nat.zero_add, Option.some.injEq] at hcell
      exact hcell.symm

end Sys2Proof.Machine
end

section
/-! Settles the statements of spec/10_state.md: the state, its invariants and its reset values. -/

namespace Sys2Proof.Machine

/-- A byte in a state outside spec/10_state.md R21 is refused by every transition, so by the one it selects. -/
theorem exec_of_not_consistent {s : State} (hl : s.cfg.Legal) (hc : ¬ s.Consistent) (i : Instr) :
    exec i s = .refused .unreachableState := by
  rw [exec_eq_takeTransition, takeTransition, if_neg (not_not.mpr hl), if_pos hc]

/-- The length ranges of the three causes exclude the empty frame and a frame that fills the buffer. -/
theorem Emission.LengthInRange.length_ne_zero_and_lt {c : Config} {e : Emission} (hl : c.Legal)
    (h : e.LengthInRange c) :
    e.frame.length ≠ 0 ∧ e.frame.length < c.C := by
  obtain ⟨hC, -⟩ := hl
  unfold Emission.LengthInRange at h
  split at h <;> omega

/-- Settles O22: a reset or a cycle without a byte changes no cell; a transition keeps the invariant by
`State.Inv.after`. -/
theorem stepKeepsInvariant : Obligations.StepKeepsInvariant := by
  intro s t h hstep
  obtain ⟨hl, ⟨-, rfl⟩ | ⟨-, -, rfl⟩ | ⟨-, -, -, rfl⟩⟩ := step_cases hstep
  · exact h.beginCycle.resetCycle
  · exact h.beginCycle.holdCycle
  · exact h.beginCycle.after (State.applies_select hl _)

/-- Settles O25: closed under steps, and the two cells past the greatest count are out of reach. -/
theorem reachableStatesClosed : Obligations.ReachableStatesClosed := by
  refine ⟨fun c _ => State.consistent_of_rest rfl rfl, fun s t hc hstep => ?_⟩
  obtain ⟨hl, -⟩ := step_cases hstep
  have hcfg : t.cfg = s.cfg := (step_environmentKept hstep).cfg
  have htc := step_keeps_consistent hc hstep
  have hroom := htc.byteCount_add_two_le (hcfg ▸ hl)
  exact ⟨htc, by omega, step_keeps_read?_of_le hstep (by rw [hcfg])⟩

/-- Settles O26: a reset clears the count, a cycle without a byte holds it, and a byte is taken only in a state of
spec/10_state.md R21, from which the count stays below `C - 1`. -/
theorem countNeverExceedsCapacity : Obligations.CountNeverExceedsCapacity := by
  refine ⟨fun c => ⟨le_rfl, Nat.zero_le _⟩, fun s t hle hstep => ⟨Nat.zero_le _, ?_⟩⟩
  obtain ⟨hl, ⟨-, rfl⟩ | ⟨-, -, rfl⟩ | ⟨-, -, hc, -⟩⟩ := step_cases hstep
  · exact Nat.zero_le _
  · exact hle
  · have hcfg : t.cfg = s.cfg := (step_environmentKept hstep).cfg
    exact le_of_add_le_left ((step_keeps_consistent hc hstep).byteCount_add_two_le (hcfg ▸ hl))

/-- Settles O27: no assignment of a transition, a reset or a cycle without a byte writes a field of the
environment. -/
theorem configurationNeverChanges : Obligations.ConfigurationNeverChanges := by
  intro s t hstep
  obtain ⟨hcfg, hinput, htick⟩ := step_environmentKept hstep
  exact ⟨hcfg, hinput, htick⟩

/-- Settles O30: the range of each cause, and `C` at least 3. -/
theorem emissionLengthByCause : Obligations.EmissionLengthByCause := by
  intro s t e hstep he
  obtain ⟨hl, -⟩ := step_cases hstep
  have hrange := step_emission_lengthInRange hstep he
  obtain ⟨hpos, hlt⟩ := hrange.length_ne_zero_and_lt hl
  refine ⟨hrange, hpos, hlt, fun href => ?_⟩
  have hmax := hrange.length_le_LMAX
  rw [href] at hmax
  exact hmax

/-- Settles O33: the transition selected reads the registers alone, and `AgreeOnVisible.after` says what it does. -/
theorem hiddenCellsUnobservable : Obligations.HiddenCellsUnobservable :=
  fun _ _ _ h hstep => h.step hstep

/-- Settles O34: at reset every cell is hidden, so any two contents agree on what is visible. -/
theorem resetContentsUnobservable : Obligations.ResetContentsUnobservable := by
  intro c m bs t es hrun
  have hagree : AgreeOnVisible (State.initial c) ((State.initial c).setBuf m) := .of_closed rfl rfl rfl rfl rfl
  exact hagree.runBytes hrun

/-- Settles O35: the transition selected is the one whose abstract effect `State.abs_after` says. -/
theorem refinesAbstractMachine : Obligations.RefinesAbstractMachine := by
  intro s b hl hc
  obtain ⟨t, hstep, -, -, habs⟩ := step_present_simulates hl hc b
  exact ⟨t, hstep, habs⟩

/-- Settles O36: the run over a frame reaches the state that stands for it. -/
theorem abstractStatesCorrespond : Obligations.AbstractStatesCorrespond := by
  refine ⟨fun s h => h.abs_reachable, fun c a hl ha => ?_,
    fun s t hs ht _ habs => hs.consistent.visible_of_abs_eq ht.consistent habs⟩
  obtain ⟨bs, hbs⟩ := ha.exists_absRun hl
  obtain ⟨t, hrun, habs, -⟩ := runBytes_simulates bs (s := State.initial c) hl (State.consistent_of_rest rfl rfl)
  rw [State.abs_of_idle (s := State.initial c) rfl, State.initial_cfg, hbs] at hrun habs
  exact ⟨bs, t, hrun, habs⟩

/-- Settles O38: the abstract run collects the payload below the guard, and `END` emits it. -/
theorem frameRoundTrip : Obligations.FrameRoundTrip := by
  intro s d hl hs hn hd hlen
  have habsRun : absRun s.cfg (s.cfg.START :: d ++ [s.cfg.END]) .idle =
      (.idle, [⟨.endSeen, s.cfg.START :: d ++ [s.cfg.END]⟩]) := by
    rw [absRun_START_data hl hd hlen]
    simp [absRun]
  obtain ⟨t, hrun, habs, -, htc⟩ :=
    runBytes_simulates (s.cfg.START :: d ++ [s.cfg.END]) hl (State.consistent_of_rest hs hn)
  rw [State.abs_of_idle hs, habsRun] at hrun habs
  have hrest := State.state_of_abs_idle habs
  exact ⟨t, hrun, hrest, htc.byteCount_of_idle hrest⟩

/-- Settles O10: the transition selected is refused before any assignment. -/
theorem unreachableStateRefused : Obligations.UnreachableStateRefused := by
  intro s hl hc hrst hvalid
  rw [step_of_byte hl hrst hvalid]
  exact exec_of_not_consistent (s := s.beginCycle) hl hc _

/-- Settles O24: the fields of `State.initial`; an unlisted cell reads as its free value. -/
theorem resetStateValues : Obligations.ResetStateValues :=
  fun _ => ⟨rfl, rfl, rfl, rfl, fun _ => ⟨rfl, rfl⟩⟩

end Sys2Proof.Machine
end

section
/-! Settles the statements of spec/20_memory.md: which cells are written, and the order of what is emitted. -/

namespace Sys2Proof.Machine

/-! ### Bytes stored and not yet emitted -/

/-- The bytes of the frame in progress, none at rest (spec/10_state.md R27). -/
def AbsState.pending : AbsState → List Byte
  | .idle => []
  | .accumulating f => f

@[simp] theorem AbsState.pending_idle : AbsState.idle.pending = [] := rfl
@[simp] theorem AbsState.pending_accumulating (f : List Byte) : (AbsState.accumulating f).pending = f := rfl

/-- A step splits the pending bytes and the new one, in order, into what it emits and what stays pending; all it
can do besides is to drop the new byte in `Idle`. -/
theorem absStep_emitted_append_pending_sublist {c : Config} (hl : c.Legal) (a : AbsState) (b : Byte) :
    (((absStep c a b).2.toList.flatMap fun e => e.frame) ++ (absStep c a b).1.pending).Sublist
      (a.pending ++ [b]) := by
  cases a with
  | idle =>
    by_cases hb : b = c.START
    · simp [hb]
    · simp [absStep_idle_of_ne hb]
  | accumulating f =>
    cases hclass : classify c b with
    | END =>
      obtain rfl := (classify_eq_END hl.2).mp hclass
      simp
    | START =>
      obtain rfl := classify_eq_START.mp hclass
      simp [absStep_START hl]
    | DATA =>
      by_cases hfull : f.length + 1 = c.C - 1
      · simp [absStep_overflow hclass hfull]
      · simp [absStep_data hclass hfull]

/-- Over a byte stream the emitted frames are drawn, in order, from the bytes pending at its start and the stream
(spec/20_memory.md R31). -/
theorem absRun_emitted_sublist {c : Config} (hl : c.Legal) (bs : List Byte) (a : AbsState) :
    ((absRun c bs a).2.flatMap fun e => e.frame).Sublist (a.pending ++ bs) := by
  induction bs generalizing a with
  | nil => simp
  | cons b bs ih =>
    have hrest := (ih (absStep c a b).1).append_left ((absStep c a b).2.toList.flatMap fun e => e.frame)
    have hfirst := (absStep_emitted_append_pending_sublist hl a b).append_right bs
    rw [← List.append_assoc] at hrest
    simpa [absRun] using hrest.trans hfirst

/-! ### Runs on registers -/

/-- A byte is taken only in a legal configuration and a state of spec/10_state.md R21. -/
theorem legal_and_consistent_of_step_present {s t : State} {b : Byte} (h : step (s.present b) = .next t) :
    s.cfg.Legal ∧ s.Consistent := by
  obtain ⟨hl, ⟨hrst, -⟩ | ⟨-, hvalid, -⟩ | ⟨-, -, hc, -⟩⟩ := step_cases h
  · cases hrst
  · cases hvalid
  · exact ⟨hl, hc⟩

/-- A run that answers emits what the abstract run emits. -/
theorem runBytes_emissions_eq_absRun {bs : List Byte} {s t : State} {es : List Emission} (hl : s.cfg.Legal)
    (hc : s.Consistent) (hrun : runBytes bs s = .next (t, es)) : es = (absRun s.cfg bs s.abs).2 := by
  obtain ⟨u, hsim, -⟩ := runBytes_simulates bs hl hc
  cases hrun.symm.trans hsim
  rfl

/-- Settles O28: a byte is taken only with the count below `C - 1`, and no transition writes past the count. -/
theorem lastCellNeverWritten : Obligations.LastCellNeverWritten :=
  fun _ _ hstep _ hi => step_keeps_read?_of_le hstep hi

/-- Settles O42: the first byte taken shows that the start is a state of spec/10_state.md R21, so the run emits what
the abstract run does, which in `Idle` starts with no byte pending. -/
theorem emittedBytesAreSubsequence : Obligations.EmittedBytesAreSubsequence := by
  intro bs s t es hs hrun
  cases bs with
  | nil => cases hrun; exact .slnil
  | cons b bs =>
    obtain ⟨_, _, hstep, -⟩ := runBytes_cons_eq_next.mp hrun
    obtain ⟨hl, hc⟩ := legal_and_consistent_of_step_present hstep
    rw [runBytes_emissions_eq_absRun hl hc hrun, State.abs_of_idle hs]
    exact absRun_emitted_sublist hl (b :: bs) .idle

end Sys2Proof.Machine
end

section
/-! SUPPORT. The selector word as stored bytes, as an instruction, and as a row of the table; the word placed for the
next step. -/

namespace Sys2Proof

/-! ### Stored bytes -/

/-- A selector is held in two bytes and read back bit for bit, with nothing above bit 8 to reject. -/
theorem decodeBytes_stored {c : Config} (h : c.Legal) (guard : Bool) (low : Byte) (bit8 : BitVec 1) :
    decodeBytes c guard [low, (0#7 : BitVec 7) ++ bit8] = .ok (decode c (bit8 ++ low) guard) := by
  have habove : ((0#7 : BitVec 7) ++ bit8).extractLsb' 1 7 = 0#7 := by revert bit8; decide
  have hbit8 : ((0#7 : BitVec 7) ++ bit8).extractLsb' 0 1 = bit8 := by revert bit8; decide
  simp only [decodeBytes, if_neg (not_not.mpr h), habove, hbit8, if_true]

theorem decodeBytes_encodeBytes {c : Config} (h : c.Legal) (guard : Bool) (i : Instr) :
    decodeBytes c guard (encodeBytes i) = .ok (decode c (encode i) guard) := by
  have hfields : (encode i).extractLsb' 8 1 ++ (encode i).extractLsb' 0 8 = encode i :=
    (BitVec.extractLsb'_append_extractLsb'_eq_extractLsb' rfl).trans BitVec.extractLsb'_eq_self
  rw [encodeBytes, decodeBytes_stored h, hfields]

/-! ### Decoding and encoding -/

/-- In `Idle` the one check is `b == START` (spec/40_idle_transitions.md R55). -/
theorem decode_idle {c : Config} (h : c.Legal) (b : Byte) (guard : Bool) :
    decode c (selectorOf .idle b) guard = if b = c.START then .idleOpen b else .idleDrop b := by
  cases hclass : classify c b with
  | START =>
    rw [if_pos (classify_eq_START.mp hclass)]
    simp [decode, hclass]
  | END =>
    rw [if_neg ((classify_eq_END h.2).mp hclass ▸ h.2.symm)]
    simp [decode, hclass]
  | DATA =>
    rw [if_neg (classify_eq_DATA.mp hclass).1]
    simp [decode, hclass]

/-- In `Accumulating` the checks are `END`, `START`, the guard, in this order (spec/60_exceptions.md R81). -/
theorem decode_accumulating {c : Config} (h : c.Legal) (b : Byte) (guard : Bool) :
    decode c (selectorOf .accumulating b) guard =
      if b = c.END then .accEnd b else if b = c.START then .accStart b
      else if guard then .accOverflow b else .accData b := by
  cases hclass : classify c b with
  | START =>
    have hb := classify_eq_START.mp hclass
    rw [if_neg (hb ▸ h.2), if_pos hb]
    simp [decode, hclass]
  | END =>
    rw [if_pos ((classify_eq_END h.2).mp hclass)]
    simp [decode, hclass]
  | DATA =>
    obtain ⟨hS, hE⟩ := classify_eq_DATA.mp hclass
    rw [if_neg hE, if_neg hS]
    simp [decode, hclass]

/-- Where a row's byte class and guard are met, its selector decodes to it (spec/30_encoding.md R47). -/
theorem decode_encode {c : Config} (h : c.Legal) {i : Instr} {guard : Bool} (hwf : i.wellFormed c = true)
    (hguard : i.admitsGuard guard = true) : decode c (encode i) guard = i := by
  cases i with
  | idleDrop b =>
    have hb : b ≠ c.START := by simpa [Instr.wellFormed] using hwf
    exact (decode_idle h b guard).trans (if_neg hb)
  | idleOpen b =>
    have hb : b = c.START := by simpa [Instr.wellFormed] using hwf
    exact (decode_idle h b guard).trans (if_pos hb)
  | accEnd b =>
    have hb : b = c.END := by simpa [Instr.wellFormed] using hwf
    exact (decode_accumulating h b guard).trans (if_pos hb)
  | accStart b =>
    have hb : b = c.START := by simpa [Instr.wellFormed] using hwf
    have hE : b ≠ c.END := hb ▸ h.2
    exact (decode_accumulating h b guard).trans ((if_neg hE).trans (if_pos hb))
  | accData b =>
    obtain ⟨hS, hE⟩ : b ≠ c.START ∧ b ≠ c.END := by simpa [Instr.wellFormed] using hwf
    obtain rfl : guard = false := by simpa [Instr.admitsGuard] using hguard
    exact (decode_accumulating h b false).trans ((if_neg hE).trans (if_neg hS))
  | accOverflow b =>
    obtain ⟨hS, hE⟩ : b ≠ c.START ∧ b ≠ c.END := by simpa [Instr.wellFormed] using hwf
    obtain rfl : guard = true := hguard
    exact (decode_accumulating h b true).trans ((if_neg hE).trans (if_neg hS))

/-- No bit of a selector is lost by decoding it. -/
theorem encode_decode {c : Config} (h : c.Legal) (sel : Selector) (guard : Bool) :
    encode (decode c sel guard) = sel := by
  obtain ⟨hstate, -, -⟩ := decode_row h sel guard
  rw [encode, hstate, decode_byte h, selectorOf_fields]

/-- In `Idle` the overflow guard plays no part (spec/40_idle_transitions.md R55). -/
theorem decode_guard_of_idle {c : Config} (h : c.Legal) {sel : Selector} (hsel : selectorState sel = .idle)
    (guard guard' : Bool) : decode c sel guard = decode c sel guard' := by
  rw [← selectorOf_fields sel, hsel, decode_idle h, decode_idle h]

/-! ### The table of match, mask and priority -/

theorem eq_selectorOf_iff {sel : Selector} {st : DecoderState} {b : Byte} :
    sel = selectorOf st b ↔ selectorState sel = st ∧ selectorByte sel = b := by
  constructor
  · rintro rfl
    simp
  · rintro ⟨rfl, rfl⟩
    exact (selectorOf_fields sel).symm

/-- The mask of the rows with byte class `START` or `END` keeps the whole selector, so they match at their state and
byte alone. -/
theorem and_fullMask_eq_iff {sel : Selector} {st : DecoderState} {b : Byte} :
    sel &&& 0x1FF#9 = selectorOf st b ↔ selectorState sel = st ∧ selectorByte sel = b := by
  have hmask : sel &&& 0x1FF#9 = sel := BitVec.and_allOnes
  rw [hmask, eq_selectorOf_iff]

/-- The mask of the other rows keeps the state alone, so they match at their state, whatever the byte. -/
theorem and_stateMask_eq_iff {sel : Selector} {st : DecoderState} :
    sel &&& 0x100#9 = selectorOf st 0#8 ↔ selectorState sel = st := by
  have hmask : sel &&& 0x100#9 = selectorOf (selectorState sel) 0#8 := by
    revert sel
    decide
  rw [hmask, eq_selectorOf_iff, selectorState_selectorOf, selectorByte_selectorOf, and_iff_left rfl]

/-- The row selected is one of the rows, and matches. -/
theorem mem_and_matches_of_firstRow {sel : Selector} {guard : Bool} {rows : List TableRow} {q : TableRow}
    (h : firstRow sel guard rows = some q) : q ∈ rows ∧ q.matches sel guard = true := by
  induction rows with
  | nil => cases h
  | cons r rows ih =>
    rw [firstRow] at h
    split at h
    case h_1 =>
      obtain ⟨hmem, hmatch⟩ := ih h
      exact ⟨List.mem_cons_of_mem _ hmem, hmatch⟩
    case h_2 hmatch _ =>
      cases h
      exact ⟨List.mem_cons_self, hmatch⟩
    case h_3 hmatch hrest =>
      split at h <;> cases h
      · obtain ⟨hmem, hmatch'⟩ := ih hrest
        exact ⟨List.mem_cons_of_mem _ hmem, hmatch'⟩
      · exact ⟨List.mem_cons_self, hmatch⟩

/-- A matching row that every other matching row ranks behind is the one selected (spec/30_encoding.md R46). -/
theorem firstRow_eq_some {sel : Selector} {guard : Bool} {rows : List TableRow} {r : TableRow} (hr : r ∈ rows)
    (hmatch : r.matches sel guard = true)
    (hbest : ∀ q ∈ rows, q.matches sel guard = true → q = r ∨ r.priority < q.priority) :
    firstRow sel guard rows = some r := by
  induction rows with
  | nil => cases hr
  | cons q rows ih =>
    obtain ⟨hhead, hrest⟩ := List.forall_mem_cons.mp hbest
    obtain rfl | hr := List.mem_cons.mp hr
    · cases hfirst : firstRow sel guard rows with
      | none => simp [firstRow, hmatch, hfirst]
      | some q' =>
        obtain ⟨hmem, hmatch'⟩ := mem_and_matches_of_firstRow hfirst
        have hle : r.priority ≤ q'.priority := (hrest q' hmem hmatch').elim (fun h => h ▸ le_rfl) Nat.le_of_lt
        simp [firstRow, hmatch, hfirst, hle]
    · have hfirst := ih hr hrest
      cases hq : q.matches sel guard with
      | false => simp [firstRow, hq, hfirst]
      | true =>
        obtain rfl | hlt := hhead hq
        · simp [firstRow, hq, hfirst]
        · simp [firstRow, hq, hfirst, hlt]

/-- The place of a transition's row in `transitionTable`; tied to it by `transitionTable_mnemonic`. -/
def Instr.rowIndex : Instr → Nat
  | .idleDrop _ => 0
  | .idleOpen _ => 1
  | .accEnd _ => 2
  | .accStart _ => 3
  | .accData _ => 4
  | .accOverflow _ => 5

theorem transitionTable_mnemonic (c : Config) (i : Instr) :
    (transitionTable c)[i.rowIndex]?.map (fun row => row.mnemonic) = some i.mnemonic := by
  cases i <;> rfl

/-- The table selects the row of the transition that the byte classes select: it matches, and the one other row that
may match, that of the state alone, ranks behind it. -/
theorem tableRow_eq_getElem? {c : Config} (h : c.Legal) (sel : Selector) (guard : Bool) :
    tableRow c sel guard = (transitionTable c)[(decode c sel guard).rowIndex]? := by
  have hidle : sel &&& 0x100#9 = 0x000#9 ↔ selectorState sel = .idle := and_stateMask_eq_iff (st := .idle)
  have hacc : sel &&& 0x100#9 = 0x100#9 ↔ selectorState sel = .accumulating :=
    and_stateMask_eq_iff (st := .accumulating)
  have hidleByte (d : Byte) : sel &&& 0x1FF#9 = 0#1 ++ d ↔ selectorState sel = .idle ∧ selectorByte sel = d :=
    and_fullMask_eq_iff (st := .idle)
  have haccByte (d : Byte) : sel &&& 0x1FF#9 = 1#1 ++ d ↔ selectorState sel = .accumulating ∧ selectorByte sel = d :=
    and_fullMask_eq_iff (st := .accumulating)
  have hne := h.2.symm
  obtain ⟨hs, ⟨hb, hi⟩ | ⟨hb, hi⟩⟩ | ⟨hs, ⟨hb, hi⟩ | ⟨hb, hi⟩ | ⟨⟨hb, hb'⟩, ⟨hg, hi⟩ | ⟨hg, hi⟩⟩⟩ :=
    decode_cases h sel guard
  all_goals
    rw [hi]
    apply firstRow_eq_some
    case hr => simp [transitionTable]
    case hmatch => simp [TableRow.matches, *]
    case hbest => simp [transitionTable, TableRow.matches, *]

end Sys2Proof

namespace Sys2Proof.Machine

/-- A transition that applies is the one its own byte selects: no two rows apply to a byte. -/
theorem State.select_eq_of_applies {s : State} (h : s.cfg.Legal) {i : Instr} (happ : s.applies i = true) :
    s.select i.byte = i := by
  obtain ⟨hstate, hwf, hguard⟩ := State.applies_iff.mp happ
  rw [State.select, hstate]
  exact decode_encode h hwf hguard

/-- Where a transition applies, its row says the next state, the next count, and the cause and length of the
emission (spec/30_encoding.md R47). -/
theorem State.after_row {s : State} (hc : s.Consistent) {i : Instr} (happ : s.applies i = true) :
    ∃ row, (transitionTable s.cfg)[i.rowIndex]? = some row ∧ (s.after i).state = row.nextState ∧
      (s.after i).byteCount = row.nextCount.getD (s.byteCount + 1) ∧
      (s.after i).out.map (fun e => (e.cause, e.frame.length)) =
        row.emission.map (fun e => (e.1, s.byteCount + e.2)) := by
  obtain ⟨hstate, -, -⟩ := State.applies_iff.mp happ
  cases i with
  | idleDrop b => exact ⟨_, rfl, hstate, hc.byteCount_of_idle hstate, rfl⟩
  | idleOpen b => exact ⟨_, rfl, rfl, rfl, rfl⟩
  | accEnd b => exact ⟨_, rfl, rfl, rfl, by simp [State.after]⟩
  | accStart b => exact ⟨_, rfl, rfl, rfl, by simp [State.after]⟩
  | accData b => exact ⟨_, rfl, hstate, rfl, rfl⟩
  | accOverflow b => exact ⟨_, rfl, rfl, rfl, by simp [State.after]⟩

/-! ### The word placed for the next step -/

@[simp] theorem State.placedIn_cfg (s : State) (st : DecoderState) : (s.placedIn st).cfg = s.cfg := by
  cases st <;> simp only [State.placedIn] <;> split <;> rfl

@[simp] theorem State.placedIn_state (s : State) (st : DecoderState) : (s.placedIn st).state = st := by
  cases st with
  | idle =>
    simp only [State.placedIn]
    split
    · assumption
    · rfl
  | accumulating =>
    simp only [State.placedIn]
    split
    case isTrue h => exact h.1
    case isFalse => rfl

/-- From capacity 4 on, the shortest frame stays below the guard (log entry 4). -/
theorem State.placedIn_accumulating_guard {s : State} (hC : 4 ≤ s.cfg.C) :
    (s.placedIn .accumulating).guard = false := by
  simp only [State.placedIn]
  split
  case isTrue h => exact h.2
  case isFalse =>
    have hne : 1 + 1 ≠ s.cfg.C - 1 := by omega
    exact decide_eq_false hne

/-- The byte of a selector, in the state placed for it, selects what the selector decodes to with the guard
false. -/
theorem State.placedIn_select {s : State} (h : s.cfg.Legal) (hC : 4 ≤ s.cfg.C) (sel : Selector) :
    (s.placedIn (selectorState sel)).select (selectorByte sel) = decode s.cfg sel false := by
  rw [State.select, State.placedIn_cfg, State.placedIn_state, selectorOf_fields]
  cases hsel : selectorState sel with
  | idle => exact decode_guard_of_idle h hsel _ _
  | accumulating => rw [State.placedIn_accumulating_guard hC]

end Sys2Proof.Machine
end

section
/-! Settles the statements of spec/30_encoding.md: the decoder and the encoder, the transition map, and the step around
the transitions. -/

namespace Sys2Proof.Machine

/-- Settles O1: the two bytes hold the selector, and the selector decodes to the row it was encoded from. -/
theorem decodeEncode : Obligations.DecodeEncode := by
  intro c i guard hl hwf hguard
  rw [decodeBytes_encodeBytes hl, decode_encode hl hwf hguard]

/-- Settles O3: the row that the table selects is that of the transition decoded. -/
theorem decoderAgreesWithTable : Obligations.DecoderAgreesWithTable := by
  intro c sel guard hl
  rw [tableRow_eq_getElem? hl, transitionTable_mnemonic]

/-- Settles O6: the byte placed is taken in the state placed for it. -/
theorem placedWordRuns : Obligations.PlacedWordRuns := by
  intro s nbits w hl hC sel
  have hcfg : (s.withFetchWord nbits w).cfg = s.cfg := s.placedIn_cfg (selectorState sel)
  refine ⟨rfl, ?_⟩
  rw [step_of_byte (hcfg ▸ hl) rfl rfl]
  exact congrArg (exec · _) (State.placedIn_select hl hC sel)

/-- Settles O17: the byte takes the transition it selects, whose row the table selects too. -/
theorem stepFollowsTransitionMap : Obligations.StepFollowsTransitionMap := by
  intro s b hl hc
  obtain ⟨row, hrow, hstate, hcount, hout⟩ :=
    State.after_row (s := s.advanceTick) hc (State.applies_select (s := s) hl b)
  exact ⟨_, row, step_present hl hc b, (tableRow_eq_getElem? hl _ _).trans hrow, hstate, hcount, hout⟩

/-- Settles O18: the transition selected runs, and a transition of the same byte that runs is the one selected. -/
theorem exactlyOneTransitionRuns : Obligations.ExactlyOneTransitionRuns := by
  intro s b hl hc
  refine ⟨s.select b, ⟨State.select_byte hl b, _, exec_eq_next.mpr ⟨hl, hc, State.applies_select hl b, rfl⟩⟩, ?_⟩
  rintro i ⟨rfl, t, hexec⟩
  obtain ⟨-, -, happ, -⟩ := exec_eq_next.mp hexec
  exact (State.select_eq_of_applies hl happ).symm

/-- Settles O19: a transition is tested for its row alone, and where the row applies no assignment of it stops. -/
theorem transitionRunsIffRowApplies : Obligations.TransitionRunsIffRowApplies := by
  intro i s
  simp only [exec_eq_next, State.applies_iff, exists_and_left, exists_eq, and_true]

/-- Settles O37: the run on registers is the run of the abstract machine, which never stops. -/
theorem everyStreamRuns : Obligations.EveryStreamRuns := by
  intro bs s hl hc
  obtain ⟨t, hrun, -, hcfg, htc⟩ := runBytes_simulates bs hl hc
  exact ⟨t, _, hrun, hcfg, htc⟩

/-- Settles O2: decoding loses no bit of the selector, and gives a row of its state, byte class and guard. -/
theorem everySelectorSelects : Obligations.EverySelectorSelects := by
  intro c sel guard hl
  obtain ⟨-, hwf, hguard⟩ := decode_row hl sel guard
  exact ⟨encode_decode hl sel guard, hwf, hguard⟩

/-- Settles O4: each word is evaluated. -/
theorem tableWordsDecode : Obligations.TableWordsDecode :=
  ⟨rfl, rfl, rfl, rfl, rfl, rfl, rfl, rfl⟩

/-- Settles O5: the two bytes decode to what the state register and the input byte select. -/
theorem stepRunsDecodedTransition : Obligations.StepRunsDecodedTransition := by
  intro s i hl hrst hvalid hi
  rw [decodeBytes_stored hl] at hi
  obtain rfl : s.select s.pins.inByte = i := Except.ok.inj hi
  exact ⟨step_of_byte hl hrst hvalid, rfl, rfl, rfl, rfl, rfl, rfl⟩

/-- Settles O8: such a cycle only clears what the ports present. -/
theorem cycleWithoutByteHolds : Obligations.CycleWithoutByteHolds :=
  fun _ hl hrst hvalid => ⟨_, step_of_no_byte hl hrst hvalid, rfl, rfl, rfl, rfl, rfl, rfl, rfl⟩

end Sys2Proof.Machine
end

section
/-! Settles the statements of spec/40_idle_transitions.md: the two transitions of `Idle`, and what the block can tell
of a byte there. -/

namespace Sys2Proof.Machine

theorem State.applies_idleDrop_iff {s : State} {b : Byte} :
    s.applies (.idleDrop b) = true ↔ s.state = .idle ∧ b ≠ s.cfg.START := by
  simp [State.applies_iff, Instr.fromState, Instr.wellFormed, Instr.admitsGuard]

theorem State.applies_idleOpen_iff {s : State} {b : Byte} :
    s.applies (.idleOpen b) = true ↔ s.state = .idle ∧ b = s.cfg.START := by
  simp [State.applies_iff, Instr.fromState, Instr.wellFormed, Instr.admitsGuard]

/-- At rest a byte other than `START` leaves a state that does not depend on the byte
(spec/40_idle_transitions.md R53, R55). -/
theorem step_present_of_rest_of_ne_START {s : State} (hl : s.cfg.Legal) (hs : s.state = .idle)
    (hn : s.byteCount = 0) {b : Byte} (hb : b ≠ s.cfg.START) :
    step (s.present b) = .next (s.advanceTick.setOut none) := by
  have hselect : s.select b = .idleDrop b :=
    State.select_eq_of_applies hl (i := .idleDrop b) (State.applies_idleDrop_iff.mpr ⟨hs, hb⟩)
  rw [step_present hl (State.consistent_of_rest hs hn), hselect]
  rfl

/-- Without `START` the abstract machine stays at rest and emits nothing (spec/40_idle_transitions.md R53 (c)). -/
theorem absRun_idle_of_START_not_mem {c : Config} {bs : List Byte} (h : c.START ∉ bs) :
    absRun c bs .idle = (.idle, []) := by
  induction bs with
  | nil => rfl
  | cons b bs ih =>
    obtain ⟨hb, hbs⟩ := List.ne_and_not_mem_of_not_mem_cons h
    rw [absRun, absStep_idle_of_ne (Ne.symm hb), ih hbs]
    rfl

/-- Settles O21: both bytes leave the one state of `step_present_of_rest_of_ne_START`. -/
theorem idleIgnoresAllButStart : Obligations.IdleIgnoresAllButStart := by
  intro s b b' hl hs hn hb hb'
  have hstep := step_present_of_rest_of_ne_START hl hs hn hb
  exact ⟨hstep.trans (step_present_of_rest_of_ne_START hl hs hn hb').symm, _, hstep, hs, hn, rfl⟩

/-- Settles O41: the run on registers is the run of the abstract machine, which never leaves rest. -/
theorem noStartNoEmission : Obligations.NoStartNoEmission := by
  intro bs s hl hs hn hbs
  obtain ⟨t, hrun, habs, -, htc⟩ := runBytes_simulates bs hl (State.consistent_of_rest hs hn)
  rw [State.abs_of_idle hs, absRun_idle_of_START_not_mem hbs] at hrun habs
  have hrest := State.state_of_abs_idle habs
  exact ⟨t, hrun, hrest, htc.byteCount_of_idle hrest⟩

/-- Settles O11: the transition applies, and only clears what the ports present. -/
theorem idleDropChangesNothing : Obligations.IdleDropChangesNothing := by
  intro b s hl hs hn hb
  have hexec := exec_eq_next.mpr
    ⟨hl, State.consistent_of_rest hs hn, State.applies_idleDrop_iff.mpr ⟨hs, hb⟩, rfl⟩
  exact ⟨_, hexec, hs, hn, rfl, fun _ => rfl, s.after_environmentKept _⟩

/-- Settles O12: the transition applies, and its one write is to cell 0. -/
theorem idleOpenOpensFrame : Obligations.IdleOpenOpensFrame := by
  intro b s hl hs hn hb
  have hexec := exec_eq_next.mpr
    ⟨hl, State.consistent_of_rest hs hn, State.applies_idleOpen_iff.mpr ⟨hs, hb⟩, rfl⟩
  exact ⟨_, hexec, rfl, rfl, rfl, fun i => s.buf.read?_write 0 i b, s.after_environmentKept _⟩

end Sys2Proof.Machine
end

section
/-! Settles the statements of spec/41_accumulating_transitions.md: the four transitions of `Accumulating`, where the
block stands after an emission, and the frame that a new `START` aborts. -/

namespace Sys2Proof.Machine

/-! ### The rows of `Accumulating` -/

theorem State.applies_accEnd_iff {s : State} {b : Byte} :
    s.applies (.accEnd b) = true ↔ s.state = .accumulating ∧ b = s.cfg.END := by
  simp [State.applies_iff, Instr.fromState, Instr.wellFormed, Instr.admitsGuard]

theorem State.applies_accStart_iff {s : State} {b : Byte} :
    s.applies (.accStart b) = true ↔ s.state = .accumulating ∧ b = s.cfg.START := by
  simp [State.applies_iff, Instr.fromState, Instr.wellFormed, Instr.admitsGuard]

theorem State.applies_accData_iff {s : State} {b : Byte} :
    s.applies (.accData b) = true ↔
      s.state = .accumulating ∧ (b ≠ s.cfg.START ∧ b ≠ s.cfg.END) ∧ s.byteCount + 1 ≠ s.cfg.C - 1 := by
  simp [State.applies_iff, Instr.fromState, Instr.wellFormed, Instr.admitsGuard, State.guard]

theorem State.applies_accOverflow_iff {s : State} {b : Byte} :
    s.applies (.accOverflow b) = true ↔
      s.state = .accumulating ∧ (b ≠ s.cfg.START ∧ b ≠ s.cfg.END) ∧ s.byteCount + 1 = s.cfg.C - 1 := by
  simp [State.applies_iff, Instr.fromState, Instr.wellFormed, Instr.admitsGuard, State.guard]

/-! ### The store that is left open of `ACC_START` -/

/-- Cell `n` holds the byte or what it held (spec/41_accumulating_transitions.md R59 (e)). -/
theorem State.readCell_storedBeforeFlush (s : State) (b : Byte) :
    (s.storedBeforeFlush b).readCell s.byteCount = b ∨
      (s.storedBeforeFlush b).readCell s.byteCount = s.readCell s.byteCount := by
  rw [State.storedBeforeFlush, State.readCell_setBuf_write, if_pos rfl]
  cases Config.accStartStores s.tick with
  | true => exact .inl rfl
  | false => exact .inr rfl

theorem State.read?_storedBeforeFlush_of_ne (s : State) (b : Byte) {i : Nat} (h : i ≠ s.byteCount) :
    (s.storedBeforeFlush b).buf.read? i = s.buf.read? i :=
  (s.buf.read?_write _ _ _).trans (if_neg h)

/-- Opening a frame writes no cell but cell 0. -/
theorem State.read?_opened_of_ne (s : State) (b : Byte) {i : Nat} (h : i ≠ 0) :
    (s.opened b).buf.read? i = s.buf.read? i :=
  (s.buf.read?_write 0 i b).trans (if_neg h)

theorem State.readCell_opened_of_ne (s : State) (b : Byte) {i : Nat} (h : i ≠ 0) :
    (s.opened b).readCell i = s.readCell i := by
  rw [State.readCell, State.read?_opened_of_ne s b h, ← State.readCell]

/-! ### After an emission -/

/-- Of the transitions that emit, `ACC_END` and `ACC_OVERFLOW` close the frame, and `ACC_START`, whose cause is the
only `RESTART`, opens the next. -/
theorem State.after_rests_of_emission {s : State} {i : Instr} {e : Emission} (he : (s.after i).out = some e) :
    if e.cause = .restart then (s.after i).state = .accumulating ∧ (s.after i).byteCount = 1
    else (s.after i).state = .idle ∧ (s.after i).byteCount = 0 := by
  cases i with
  | idleDrop b => cases he
  | idleOpen b => cases he
  | accEnd b => cases he; exact ⟨rfl, rfl⟩
  | accStart b => cases he; exact ⟨rfl, rfl⟩
  | accData b => cases he
  | accOverflow b => cases he; exact ⟨rfl, rfl⟩

/-! ### Runs from rest -/

/-- A frame within the capacity, from rest: `END` emits it whole. -/
theorem absRun_closed_frame {c : Config} (hl : c.Legal) {d : List Byte} (hd : ∀ x ∈ d, classify c x = .DATA)
    (hlen : d.length ≤ c.C - 3) :
    absRun c (c.START :: d ++ [c.END]) .idle = (.idle, [⟨.endSeen, c.START :: d ++ [c.END]⟩]) := by
  rw [absRun_START_data hl hd hlen]
  simp [absRun]

/-- `START` in a frame emits the frame; from there on the run is as if `START` had come at rest
(spec/41_accumulating_transitions.md R59). -/
theorem absRun_accumulating_START {c : Config} (hl : c.Legal) (f bs : List Byte) :
    absRun c (c.START :: bs) (.accumulating f) =
      ((absRun c (c.START :: bs) .idle).1, ⟨.restart, f⟩ :: (absRun c (c.START :: bs) .idle).2) := by
  rw [absRun_START, absRun, absStep_START hl]
  rfl

/-- From rest, a stream whose abstract run comes back to rest takes the registers there, with the same emissions. -/
theorem runBytes_of_absRun_idle {s : State} {bs : List Byte} {es : List Emission} (hl : s.cfg.Legal)
    (hs : s.state = .idle) (hn : s.byteCount = 0) (habsRun : absRun s.cfg bs .idle = (.idle, es)) :
    ∃ t, runBytes bs s = .next (t, es) ∧ t.state = .idle ∧ t.byteCount = 0 := by
  obtain ⟨t, hrun, habs, -, htc⟩ := runBytes_simulates bs hl (State.consistent_of_rest hs hn)
  rw [State.abs_of_idle hs, habsRun] at hrun habs
  have hrest := State.state_of_abs_idle habs
  exact ⟨t, hrun, hrest, htc.byteCount_of_idle hrest⟩

/-! ### The statements -/

/-- Settles O13: the transition applies; its one write is the append, and the frame is closed after it. -/
theorem accEndEmitsClosedFrame : Obligations.AccEndEmitsClosedFrame := by
  intro b s hl hs hpos hle hb
  have hexec := exec_eq_next.mpr
    ⟨hl, State.consistent_of_accumulating hs hpos hle, State.applies_accEnd_iff.mpr ⟨hs, hb⟩, rfl⟩
  exact ⟨_, hexec, rfl, rfl, rfl, fun i => s.buf.read?_write s.byteCount i b, s.after_environmentKept _⟩

/-- Settles O14: the transition applies; the store left open is to cell `n`, which is not cell 0, so the frame that
is opened after it leaves it as it is. -/
theorem accStartFlushesAndReopens : Obligations.AccStartFlushesAndReopens := by
  intro b s hl hs hpos hle hb
  have hexec := exec_eq_next.mpr
    ⟨hl, State.consistent_of_accumulating hs hpos hle, State.applies_accStart_iff.mpr ⟨hs, hb⟩, rfl⟩
  refine ⟨_, hexec, rfl, rfl, rfl, ?_, ?_, fun i hi0 hin => ?_, s.after_environmentKept _⟩
  · exact (Memory.read?_write _ 0 0 b).trans (if_pos rfl)
  · rw [State.after, State.readCell_opened_of_ne _ b (Nat.ne_of_gt hpos), State.readCell_setOut]
    exact s.readCell_storedBeforeFlush b
  · exact (State.read?_opened_of_ne _ b hi0).trans (s.read?_storedBeforeFlush_of_ne b hin)

/-- Settles O16: at the count `C - 2` the guard holds, so the transition applies; its one write is the append, and
the frame is closed after it. -/
theorem accOverflowFlushesFullBuffer : Obligations.AccOverflowFlushesFullBuffer := by
  intro b s hl hs hn hS hE
  have hC := hl.1
  have hconsistent := State.consistent_of_accumulating hs (show 1 ≤ s.byteCount by omega) hn.le
  have hguard : s.byteCount + 1 = s.cfg.C - 1 := by omega
  have hexec := exec_eq_next.mpr
    ⟨hl, hconsistent, State.applies_accOverflow_iff.mpr ⟨hs, ⟨hS, hE⟩, hguard⟩, rfl⟩
  rw [← hn]
  exact ⟨_, hexec, rfl, rfl, rfl, fun i => s.buf.read?_write s.byteCount i b, s.after_environmentKept _⟩

/-- Settles O31: a reset and a cycle without a byte emit nothing; a transition that emits rests or has reopened. -/
theorem restsAfterEmission : Obligations.RestsAfterEmission := by
  intro s t e hstep he
  obtain ⟨-, ⟨-, rfl⟩ | ⟨-, -, rfl⟩ | ⟨-, -, -, rfl⟩⟩ := step_cases hstep
  · cases he
  · cases he
  · exact State.after_rests_of_emission he

/-- Settles O40: the abstract run collects the first payload, the new `START` emits it and begins a run from rest,
and that run is over a frame within the capacity. -/
theorem abortedFrameFlushed : Obligations.AbortedFrameFlushed := by
  intro s d d' hl hs hn hd hd' hlen hlen'
  have hclosed := absRun_closed_frame hl hd' hlen'
  rw [List.cons_append] at hclosed
  refine runBytes_of_absRun_idle hl hs hn ?_
  rw [List.append_assoc, absRun_START_data hl hd hlen, List.cons_append, absRun_accumulating_START hl, hclosed]

/-- Settles O15: below the count `C - 2` the guard does not hold, so the transition applies; it is the append. -/
theorem accDataAppends : Obligations.AccDataAppends := by
  intro b s hl hs hpos hle hS hE
  have hconsistent := State.consistent_of_accumulating hs hpos (show s.byteCount ≤ s.cfg.C - 2 by omega)
  have hguard : s.byteCount + 1 ≠ s.cfg.C - 1 := by omega
  have hexec := exec_eq_next.mpr
    ⟨hl, hconsistent, State.applies_accData_iff.mpr ⟨hs, ⟨hS, hE⟩, hguard⟩, rfl⟩
  exact ⟨_, hexec, hs, rfl, rfl, fun i => s.buf.read?_write s.byteCount i b, s.after_environmentKept _⟩

end Sys2Proof.Machine
end

section
/-! SUPPORT. The output ports, the datagram and the log line of an emission, each as a function of the emission
alone. -/

namespace Sys2Proof.Machine

/-! ### The output ports -/

theorem causeCode_injective : Function.Injective causeCode := by
  intro c c'
  cases c <;> cases c' <;> simp [causeCode]

theorem State.outCause_of_out {s : State} {e : Emission} (h : s.out = some e) : s.outCause = causeCode e.cause := by
  simp only [State.outCause, h]

/-- The codes of spec/42_emission_and_sinks.md R64 tell the causes apart. -/
theorem State.outCause_eq_causeCode_iff {s : State} {e : Emission} (h : s.out = some e) (c : Cause) :
    s.outCause = causeCode c ↔ e.cause = c := by
  rw [State.outCause_of_out h, causeCode_injective.eq_iff]

/-- A length within the capacity is not cut to the `W` bits of `out_len` (spec/00_scope.md R8). -/
theorem State.outLen_toNat_of_out {s : State} {e : Emission} (h : s.out = some e)
    (hlen : e.frame.length < s.cfg.C) : s.outLen.toNat = e.frame.length := by
  have hC : s.cfg.C < 2 ^ s.cfg.W := (Config.W_le_iff (Nat.ne_zero_of_lt hlen) _).mp le_rfl
  simp only [State.outLen, h]
  exact (BitVec.toNat_ofNat _ _).trans (Nat.mod_eq_of_lt (hlen.trans hC))

theorem State.outByte_of_out {s : State} {e : Emission} (h : s.out = some e) {i : Nat} (hi : i < e.frame.length) :
    s.outByte i = e.frame[i] := by
  simp only [State.outByte, h, List.getElem?_eq_getElem hi, Option.getD_some]

/-- Byte `i` of a packed word is in bits `8*i + 7 : 8*i` (spec/42_emission_and_sinks.md R63). -/
theorem extractLsb'_packBytes (f : Nat → Byte) {i k : Nat} (h : i < k) :
    (packBytes f k).extractLsb' (8 * i) 8 = f i := by
  induction k with
  | zero => exact absurd h (Nat.not_lt_zero i)
  | succ k ih =>
    rw [packBytes, BitVec.extractLsb'_cast]
    obtain hlt | rfl := Nat.lt_succ_iff_lt_or_eq.mp h
    · rw [BitVec.extractLsb'_append_eq_of_add_le (by omega), ih hlt]
    · exact BitVec.extractLsb'_append_eq_left

/-! ### Emissions -/

theorem State.after_out_cause (s : State) (i : Instr) : (s.after i).out.map (fun e => e.cause) = emissionCause i := by
  cases i <;> rfl

theorem step_emission_length_ne_zero_and_lt {s t : State} {e : Emission} (h : step s = .next t)
    (he : t.out = some e) : e.frame.length ≠ 0 ∧ e.frame.length < s.cfg.C := by
  obtain ⟨hl, -⟩ := step_cases h
  exact (step_emission_lengthInRange h he).length_ne_zero_and_lt hl

/-! ### The calls of the two receivers -/

theorem State.sinkCall_eq_some_iff {s : State} {call : SinkCall} :
    s.sinkCall = some call ↔ ∃ e, s.out = some e ∧ call = ⟨e.frame, e.frame.length⟩ := by
  rw [State.sinkCall, Option.map_eq_some_iff]
  simp only [eq_comm]

theorem State.logCall_of_out {s : State} {e : Emission} (h : s.out = some e) :
    s.logCall = some ⟨decide (e.cause = .overflow), e.frame⟩ := by
  simp only [State.logCall, h, Option.map_some]

/-! ### The datagram -/

/-- The 13 bytes before the frame (spec/42_emission_and_sinks.md R68). -/
def dgramHeader (p : SinkParams) : List Byte := p.MAGIC.toList ++ [p.MFR_ID, p.BUS_ID, p.RSVD]

@[simp] theorem dgramHeader_length (p : SinkParams) : (dgramHeader p).length = 13 := by
  simp [dgramHeader]

theorem sinkDatagram_payload (p : SinkParams) (call : SinkCall) :
    (sinkDatagram p call).payload = dgramHeader p ++ call.frameBytes := rfl

theorem sinkDatagram_payload_length (p : SinkParams) (call : SinkCall) :
    (sinkDatagram p call).payload.length = 13 + call.frameBytes.length := by
  rw [sinkDatagram_payload, List.length_append, dgramHeader_length]

/-! ### The log line -/

/-- The characters of `0123456789ABCDEF` (spec/42_emission_and_sinks.md R73). -/
def hexCharacters : List Byte := "0123456789ABCDEF".toList.map fun ch => BitVec.ofNat 8 ch.toNat

theorem hexCharacters_getElem? (d : BitVec 4) : hexCharacters[d.toNat]? = some (hexDigit d) := by
  revert d
  decide

theorem hexDigit_injective : Function.Injective hexDigit := by
  unfold Function.Injective
  decide

theorem highNibble_toNat (b : Byte) : (b.extractLsb' 4 4).toNat = b.toNat / 16 := by
  rw [BitVec.extractLsb'_toNat, Nat.shiftRight_eq_div_pow]
  have := b.isLt
  omega

theorem lowNibble_toNat (b : Byte) : (b.extractLsb' 0 4).toNat = b.toNat % 16 := by
  rw [BitVec.extractLsb'_toNat, Nat.shiftRight_zero]

@[simp] theorem hex2_length (b : Byte) : (hex2 b).length = 2 := rfl

/-- The two nibbles make up the byte, and each is read back from its digit. -/
theorem hex2_injective : Function.Injective hex2 := by
  intro b c h
  obtain ⟨hhigh, hlow⟩ : hexDigit (b.extractLsb' 4 4) = hexDigit (c.extractLsb' 4 4) ∧
      hexDigit (b.extractLsb' 0 4) = hexDigit (c.extractLsb' 0 4) := by
    simpa [hex2] using h
  have hdiv := congrArg BitVec.toNat (hexDigit_injective hhigh)
  have hmod := congrArg BitVec.toNat (hexDigit_injective hlow)
  rw [highNibble_toNat, highNibble_toNat] at hdiv
  rw [lowNibble_toNat, lowNibble_toNat] at hmod
  exact BitVec.eq_of_toNat_eq (by omega)

/-- The text of the bytes after the first, each after its space; tied to `hexBytes` by `hexBytes_cons`. -/
def hexRest : List Byte → List Byte
  | [] => []
  | b :: f => 0x20#8 :: hex2 b ++ hexRest f

theorem hexBytes_cons (b : Byte) (f : List Byte) : hexBytes (b :: f) = hex2 b ++ hexRest f := by
  induction f generalizing b with
  | nil => simp [hexBytes, hexRest]
  | cons c f ih => simp [hexBytes, hexRest, ih]

theorem hexRest_length (f : List Byte) : (hexRest f).length = 3 * f.length := by
  induction f with
  | nil => rfl
  | cons b f ih =>
    simp only [hexRest, List.length_append, List.length_cons, hex2_length, ih]
    omega

theorem hexRest_injective : Function.Injective hexRest := by
  intro f g h
  induction f generalizing g with
  | nil => cases g with
    | nil => rfl
    | cons c g => cases h
  | cons b f ih => cases g with
    | nil => cases h
    | cons c g =>
      obtain ⟨hfirst, hrest⟩ := List.append_inj (List.tail_eq_of_cons_eq h) rfl
      rw [hex2_injective hfirst, ih hrest]

/-- `N` bytes give `3 * N - 1` characters (spec/42_emission_and_sinks.md R73). -/
theorem hexBytes_length (f : List Byte) : (hexBytes f).length = 3 * f.length - 1 := by
  cases f with
  | nil => rfl
  | cons b f =>
    rw [hexBytes_cons, List.length_append, hex2_length, hexRest_length, List.length_cons]
    omega

theorem hexBytes_injective : Function.Injective hexBytes := by
  intro f g h
  cases f with
  | nil => cases g with
    | nil => rfl
    | cons c g => rw [hexBytes_cons] at h; cases h
  | cons b f => cases g with
    | nil => rw [hexBytes_cons] at h; cases h
    | cons c g =>
      rw [hexBytes_cons, hexBytes_cons] at h
      obtain ⟨hfirst, hrest⟩ := List.append_inj h rfl
      rw [hex2_injective hfirst, hexRest_injective hrest]

/-- One space between two bytes and none after the last. -/
theorem hexBytes_eq_intercalate (f : List Byte) : hexBytes f = List.intercalate [0x20#8] (f.map hex2) := by
  induction f using hexBytes.induct with
  | case1 => rfl
  | case2 b => exact List.intercalate_singleton.symm
  | case3 b c f ih =>
    simp [hexBytes, ih]

end Sys2Proof.Machine
end

section
/-! Settles the statements of spec/42_emission_and_sinks.md: how often a step emits, what the ports show of it, and
what the Frame Sink and the log make of it. -/

namespace Sys2Proof.Machine

/-- A run has one step for each byte, and each step at most one emission, which is not empty. -/
theorem runBytes_emissions {bs : List Byte} {s t : State} {es : List Emission} (hrun : runBytes bs s = .next (t, es)) :
    es.length ≤ bs.length ∧ ∀ e ∈ es, 1 ≤ e.frame.length := by
  induction bs generalizing s es with
  | nil => cases hrun; exact ⟨le_rfl, nofun⟩
  | cons b bs ih =>
    obtain ⟨u, es', hstep, hrest, rfl⟩ := runBytes_cons_eq_next.mp hrun
    obtain ⟨hlen, hpos⟩ := ih hrest
    refine ⟨?_, fun e he => ?_⟩
    · have hone : u.out.toList.length ≤ 1 := by cases u.out <;> simp
      simp only [List.length_append, List.length_cons]
      omega
    · obtain hfirst | hlater := List.mem_append.mp he
      · obtain ⟨hne, -⟩ := step_emission_length_ne_zero_and_lt hstep (Option.mem_toList.mp hfirst)
        exact Nat.pos_of_ne_zero hne
      · exact hpos e hlater

/-- Settles O43: the emission of each transition is read off where it leads; a reset is no transition. -/
theorem atMostOneEmissionPerStep : Obligations.AtMostOneEmissionPerStep := by
  refine ⟨fun i s t hexec => ?_, fun s t hrst hstep => ?_, fun _ _ _ _ => runBytes_emissions⟩
  · obtain ⟨-, -, -, rfl⟩ := exec_eq_next.mp hexec
    exact s.after_out_cause i
  · obtain ⟨hl, -⟩ := step_cases hstep
    rw [step_of_rst hl hrst] at hstep
    cases hstep
    rfl

/-- Settles O45: the length of what a step emits is below the capacity, so it fits in `out_len` and each of its bytes
is one of the `C - 1` of `out_data`. -/
theorem portsPresentEmission : Obligations.PortsPresentEmission := by
  refine fun s t hstep => ⟨fun hnone => ?_, fun e he => ?_⟩
  · simp [State.outValid, State.outCause, State.outLen, hnone]
  · have hcfg : t.cfg = s.cfg := (step_environmentKept hstep).cfg
    obtain ⟨-, hlt⟩ := step_emission_length_ne_zero_and_lt hstep he
    rw [← hcfg] at hlt
    refine ⟨by simp [State.outValid, he], State.outCause_eq_causeCode_iff he .endSeen,
      State.outCause_eq_causeCode_iff he .restart, State.outCause_eq_causeCode_iff he .overflow,
      State.outLen_toNat_of_out he hlt, fun i hi => ?_⟩
    have hpacked : i < t.cfg.C - 1 := by omega
    exact (extractLsb'_packBytes t.outByte hpacked).trans (State.outByte_of_out he hi)

/-- Settles O48: the header has 13 bytes, and the frame of a step has at least one and at most `C - 1`. -/
theorem datagramSize : Obligations.DatagramSize := by
  refine ⟨fun _ => rfl, fun p s t call hstep hcall => ?_⟩
  obtain ⟨e, he, rfl⟩ := State.sinkCall_eq_some_iff.mp hcall
  obtain ⟨hne, hlt⟩ := step_emission_length_ne_zero_and_lt hstep he
  have hlen : (sinkDatagram p ⟨e.frame, e.frame.length⟩).payload.length = 13 + e.frame.length :=
    sinkDatagram_payload_length p _
  refine ⟨hlen, by omega, by omega, fun href => ?_⟩
  have hC : s.cfg.C = 128 := congrArg Config.C href
  omega

/-- Settles O50: the two digits are those of the quotient and the remainder by 16. -/
theorem hexLineText : Obligations.HexLineText := by
  refine ⟨fun b => ?_, fun p f => ⟨?_, fun _ => ?_⟩⟩
  · have hhigh := hexCharacters_getElem? (b.extractLsb' 4 4)
    have hlow := hexCharacters_getElem? (b.extractLsb' 0 4)
    rw [highNibble_toNat] at hhigh
    rw [lowNibble_toNat] at hlow
    exact (congrArg₂ (fun x y => [x, y]) hhigh hlow).symm
  · exact congrArg (· ++ p.LOG_EOL) (hexBytes_eq_intercalate f)
  · rw [hexline, List.length_append, hexBytes_length]

/-- Settles O51: the terminator is the same for both lines, and the text before it is read back two digits at a
time. -/
theorem hexLineReadsBack : Obligations.HexLineReadsBack :=
  fun _ _ _ h => hexBytes_injective (List.append_cancel_right h)

/-- Settles O46: both calls are made of the one emission in `out`. -/
theorem sinkAndLogAgree : Obligations.SinkAndLogAgree := by
  intro s
  refine ⟨?_, ?_, fun hnone => ?_, fun call hcall => ?_⟩
  · simp [State.sinkCall, State.logCall, Function.comp_def]
  · simp [State.sinkCall, Function.comp_def]
  · simp [State.sinkCall, State.logCall, hnone]
  · obtain ⟨e, -, rfl⟩ := State.sinkCall_eq_some_iff.mp hcall
    rfl

/-- Settles O47: the frame follows the 13 bytes of the header. -/
theorem datagramLayout : Obligations.DatagramLayout := by
  refine fun port call => ⟨rfl, fun i => ?_, rfl, rfl⟩
  rw [sinkDatagram_payload, List.getElem?_append_right (by simp), dgramHeader_length, Nat.add_sub_cancel_left]

/-- Settles O49: the flag of the call is the test for `OVERFLOW`, and it alone puts the error text before the line. -/
theorem logErrorOnlyOnOverflow : Obligations.LogErrorOnlyOnOverflow := by
  intro p s e he
  refine ⟨_, State.logCall_of_out he, decide_eq_true_iff, rfl, ?_⟩
  by_cases hcause : e.cause = .overflow <;> simp [logLine, hcause]

end Sys2Proof.Machine
end

section
/-! Settles the statements of spec/60_exceptions.md: the order of the checks of a step, that no step faults, and that a
partial frame waits for its next byte. -/

namespace Sys2Proof.Machine

/-! ### The order of the checks -/

/-- The one check of `Idle` (spec/60_exceptions.md R81). -/
theorem State.select_of_idle {s : State} (hl : s.cfg.Legal) (hs : s.state = .idle) (b : Byte) :
    s.select b = if b = s.cfg.START then .idleOpen b else .idleDrop b := by
  rw [State.select, hs, decode_idle hl]

/-- The checks of `Accumulating` in their order (spec/60_exceptions.md R81). -/
theorem State.select_of_accumulating {s : State} (hl : s.cfg.Legal) (hs : s.state = .accumulating) (b : Byte) :
    s.select b =
      if b = s.cfg.END then .accEnd b
      else if b = s.cfg.START then .accStart b
      else if s.byteCount + 1 = s.cfg.C - 1 then .accOverflow b
      else .accData b := by
  rw [State.select, hs, decode_accumulating hl]
  simp only [State.guard, decide_eq_true_eq]

/-- At the count `C - 2` every byte ends the frame; a sentinel does so with its own cause and not as an overflow
(spec/60_exceptions.md R82). -/
theorem State.after_select_emission_of_guard {s : State} (hl : s.cfg.Legal) (hs : s.state = .accumulating)
    (hguard : s.byteCount + 1 = s.cfg.C - 1) (b : Byte) :
    ∃ e, (s.after (s.select b)).out = some e ∧
      if b = s.cfg.END then e.cause = .endSeen ∧ e.frame.length = s.byteCount + 1
      else if b = s.cfg.START then e.cause = .restart ∧ e.frame.length = s.byteCount
      else e.cause = .overflow ∧ e.frame.length = s.byteCount + 1 := by
  rw [State.select_of_accumulating hl hs, if_pos hguard]
  split_ifs with hE hS
  · exact ⟨_, rfl, rfl, by simp⟩
  · exact ⟨_, rfl, rfl, by simp⟩
  · exact ⟨_, rfl, rfl, by simp⟩

/-! ### No fault -/

/-- A transition leads to `State.after` or is refused: in a state of spec/10_state.md R21 two cells are left, so no
assignment is outside the buffer (spec/20_memory.md R36). -/
theorem exec_next_or_refused (i : Instr) (s : State) :
    exec i s = .next (s.after i) ∨ ∃ r, exec i s = .refused r := by
  by_cases hl : s.cfg.Legal
  case neg => exact .inr ⟨_, by rw [exec_eq_takeTransition, takeTransition, if_pos hl]⟩
  by_cases hc : s.Consistent
  case neg => exact .inr ⟨_, exec_of_not_consistent hl hc i⟩
  by_cases happ : s.applies i = true
  case neg =>
    refine .inr ⟨.notSelected i.mnemonic, ?_⟩
    rw [exec_eq_takeTransition, takeTransition, if_neg (not_not.mpr hl), if_neg (not_not.mpr hc), if_neg happ]
  exact .inl (exec_eq_next.mpr ⟨hl, hc, happ, rfl⟩)

theorem exec_ne_fault (i : Instr) (s : State) (e : Fault) : exec i s ≠ .fault e := by
  obtain hnext | ⟨r, hrefused⟩ := exec_next_or_refused i s
  · rw [hnext]; nofun
  · rw [hrefused]; nofun

/-! ### Cycles without a byte -/

/-- What holds of all pins to come and of quiet pins holds of those that the next cycle reads. -/
theorem State.pins_of_forall_mem_input {P : Pins → Prop} {s : State} (hquiet : P Pins.quiet)
    (h : ∀ p ∈ s.input, P p) : P s.pins := by
  unfold State.pins
  cases hinput : s.input with
  | nil => exact hquiet
  | cons p ps => exact h p (hinput ▸ List.mem_cons_self)

/-- A cycle without a byte is a reset or holds: nothing is emitted, and where `rst` is low all state of the block is
kept (spec/70_reset_and_hazards.md R93, R96, R105). -/
theorem exists_step_of_no_byte {s : State} (hl : s.cfg.Legal) (hvalid : s.pins.inValid = false) :
    ∃ t, step s = .next t ∧ t.out = none ∧ t.cfg = s.cfg ∧ t.input = s.input.tail ∧
      (s.pins.rst = false → t.state = s.state ∧ t.byteCount = s.byteCount ∧ t.buf = s.buf) := by
  cases hrst : s.pins.rst with
  | true => exact ⟨_, step_of_rst hl hrst, rfl, rfl, rfl, nofun⟩
  | false => exact ⟨_, step_of_no_byte hl hrst hvalid, rfl, rfl, rfl, fun _ => ⟨rfl, rfl, rfl⟩⟩

/-- A run begins with a cycle that emits nothing: it emits what the cycles after it do. -/
theorem runCycles_succ_of_quiet_step {k : Nat} {s t u : State} {es : List Emission} (hstep : step s = .next t)
    (hout : t.out = none) (hrun : runCycles k t = .next (u, es)) : runCycles (k + 1) s = .next (u, es) := by
  rw [runCycles, hstep]
  simp only [hrun, hout, Option.toList_none, List.nil_append]

/-! ### The statements -/

/-- Settles O20: at the count `C - 2` the guard holds, and the log is told of an error by the cause alone. -/
theorem sentinelsOutrankGuard : Obligations.SentinelsOutrankGuard := by
  intro s b hl hs hn
  have hC := hl.1
  have hguard : s.byteCount + 1 = s.cfg.C - 1 := by omega
  have hc := State.consistent_of_accumulating hs (show 1 ≤ s.byteCount by omega) hn.le
  obtain ⟨e, he, hchecks⟩ := State.after_select_emission_of_guard (s := s.advanceTick) hl hs hguard b
  refine ⟨_, _, e, step_present hl hc b, State.logCall_of_out he, he, ?_⟩
  simp only [State.advanceTick_cfg, State.advanceTick_byteCount, hguard] at hchecks
  split_ifs at hchecks ⊢ with hE hS
  · simp [hchecks]
  · simp [hchecks, hn]
  · simp [hchecks]

/-- Settles O29: the configuration is refused, or the cycle is a reset or without a byte, or a transition runs, and none
of them faults. -/
theorem noStepFaults : Obligations.NoStepFaults := by
  intro s e
  by_cases hl : s.cfg.Legal
  case neg => rw [step_of_illegal hl]; nofun
  cases hrst : s.pins.rst with
  | true => rw [step_of_rst hl hrst]; nofun
  | false =>
    cases hvalid : s.pins.inValid with
    | false => rw [step_of_no_byte hl hrst hvalid]; nofun
    | true => rw [step_of_byte hl hrst hvalid]; exact exec_ne_fault _ _ e

/-- Settles O44, by induction on the number of cycles: the first is quiet, and leaves fewer pins without a byte. -/
theorem partialFrameWaitsForByte : Obligations.PartialFrameWaitsForByte := by
  intro k
  induction k with
  | zero => exact fun s _ _ => ⟨s, rfl, fun _ => ⟨rfl, rfl, rfl⟩⟩
  | succ k ih =>
    intro s hl hvalid
    have hnow : s.pins.inValid = false :=
      State.pins_of_forall_mem_input (P := fun p => p.inValid = false) rfl hvalid
    obtain ⟨t, hstep, hout, hcfg, hinput, hheld⟩ := exists_step_of_no_byte hl hnow
    have hlater : ∀ p ∈ t.input, p ∈ s.input := fun p hp => List.mem_of_mem_tail (hinput ▸ hp)
    obtain ⟨u, hrun, hwait⟩ := ih t (hcfg ▸ hl) fun p hp => hvalid p (hlater p hp)
    refine ⟨u, runCycles_succ_of_quiet_step hstep hout hrun, fun hrst => ?_⟩
    have hlow : s.pins.rst = false :=
      State.pins_of_forall_mem_input (P := fun p => p.rst = false) rfl hrst
    obtain ⟨hstate, hcount, hbuf⟩ := hheld hlow
    obtain ⟨hstate', hcount', hbuf'⟩ := hwait fun p hp => hrst p (hlater p hp)
    exact ⟨hstate'.trans hstate, hcount'.trans hcount, hbuf'.trans hbuf⟩

/-- Settles O52: the byte selects the transition of the first check that holds, and the emission of a transition has
its own cause. -/
theorem priorityOfChecks : Obligations.PriorityOfChecks := by
  intro s b hl hc i
  have hselect : s.select b = i := by
    cases hs : s.state with
    | idle => simp only [i, hs]; exact State.select_of_idle hl hs b
    | accumulating => simp only [i, hs]; exact State.select_of_accumulating hl hs b
  have happ : s.applies i = true := hselect ▸ State.applies_select hl b
  exact ⟨_, hselect ▸ step_present hl hc b, exec_eq_next.mpr ⟨hl, hc, happ, rfl⟩, State.after_out_cause _ i⟩

end Sys2Proof.Machine
end

section
/-! Settles the statements of spec/70_reset_and_hazards.md: what a reset does, the state it leaves, and how a frame
longer than the capacity is lost. -/

namespace Sys2Proof.Machine

/-! ### Long frames -/

/-- The `C - 2`th data byte of a frame emits it; from there on the run is a run from rest
(spec/41_accumulating_transitions.md R61). -/
theorem absRun_START_data_overflow {c : Config} (hl : c.Legal) {d : List Byte} {b : Byte}
    (hd : ∀ x ∈ d, classify c x = .DATA) (hb : classify c b = .DATA) (hlen : d.length = c.C - 3) (bs : List Byte) :
    absRun c (c.START :: d ++ b :: bs) .idle =
      ((absRun c bs .idle).1, ⟨.overflow, c.START :: d ++ [b]⟩ :: (absRun c bs .idle).2) := by
  have hC := hl.1
  have hfull : (c.START :: d).length + 1 = c.C - 1 := by rw [List.length_cons]; omega
  rw [absRun_START_data hl hd hlen.le, absRun, absStep_overflow hb hfull]
  rfl

/-- A frame over the capacity, from rest: it is emitted up to the `C - 2`th data byte, and what follows holds no
`START` and so is dropped (spec/40_idle_transitions.md R53). -/
theorem absRun_long_frame {c : Config} (hl : c.Legal) {d : List Byte} (hd : ∀ x ∈ d, classify c x = .DATA)
    (hlen : c.C - 3 < d.length) :
    absRun c (c.START :: d ++ [c.END]) .idle = (.idle, [⟨.overflow, c.START :: d.take (c.C - 2)⟩]) := by
  obtain ⟨hC, hne⟩ := hl
  have hsplit : d = d.take (c.C - 3) ++ d[c.C - 3] :: d.drop (c.C - 2) := by
    rw [show c.C - 2 = c.C - 3 + 1 by omega, ← List.drop_eq_getElem_cons hlen, List.take_append_drop]
  have hcut : d.take (c.C - 2) = d.take (c.C - 3) ++ [d[c.C - 3]] := by
    rw [show c.C - 2 = c.C - 3 + 1 by omega, List.take_succ_eq_append_getElem hlen]
  have htail : c.START ∉ d.drop (c.C - 2) ++ [c.END] := by
    rw [List.mem_append, List.mem_singleton, not_or]
    exact ⟨fun hmem => (classify_eq_DATA.mp (hd _ (List.mem_of_mem_drop hmem))).1 rfl, hne⟩
  have hstream : c.START :: d ++ [c.END] =
      c.START :: d.take (c.C - 3) ++ d[c.C - 3] :: (d.drop (c.C - 2) ++ [c.END]) := by
    conv_lhs => rw [hsplit]
    simp only [List.cons_append, List.append_assoc]
  rw [hstream, absRun_START_data_overflow ⟨hC, hne⟩ (fun x hx => hd x (List.mem_of_mem_take hx))
    (hd _ (List.getElem_mem hlen)) (List.length_take_of_le hlen.le), absRun_idle_of_START_not_mem htail, hcut,
    List.cons_append]

/-! ### The state after reset -/

/-- No cell is valid and nothing is presented, so only the parameters and the resting registers have anything to
meet. -/
theorem State.initial_inv {c : Config} (h : c.Legal) : (State.initial c).Inv where
  legal := h
  consistent := State.consistent_of_rest rfl rfl
  bufCanonical := State.initial_buf_wf c
  bufInBounds := nofun
  validCellsWritten := nofun
  startFirst := nofun
  noSentinelAfter := nofun
  outShape := nofun

/-! ### The statements -/

/-- Settles O39: the run on registers is that of the abstract machine, which drops the tail at rest. -/
theorem longFrameCut : Obligations.LongFrameCut :=
  fun _ _ hl hs hn hd hlen => runBytes_of_absRun_idle hl hs hn (absRun_long_frame hl hd hlen)

/-- Settles O7: `step_of_rst` does not ask for the byte, and the reset writes the registers and the ports alone. -/
theorem resetOutranksByte : Obligations.ResetOutranksByte :=
  fun _ hl hrst => ⟨_, step_of_rst hl hrst, rfl, rfl, rfl, rfl, rfl, rfl, rfl, rfl, rfl⟩

/-- Settles O23: `State.initial_inv`, and the reference parameters are legal. -/
theorem resetHasInvariant : Obligations.ResetHasInvariant :=
  ⟨fun _ => State.initial_inv, State.initial_inv (by decide)⟩

end Sys2Proof.Machine
end
